-- ==== Sys2Proof/Word.lean ====
section
/-! DEFINITION. The word types of the VX-8: 64-bit scalars, 4,096-bit vectors, 512-bit masks, tiles and latches
(spec/02 R40). -/

namespace Sys2Proof

/-- A scalar register, a doubleword of memory, an address (R40). -/
abbrev Word := BitVec 64
/-- One 32-bit instruction word (R67). -/
abbrev IWord := BitVec 32
/-- A vector register or a bypass latch: 4,096 bits (R23, R40). -/
abbrev Vec := BitVec 4096
/-- A mask register: one bit per byte lane (R40). -/
abbrev Mask := BitVec 512
/-- An accumulator tile: 16 × 16 × 32 bits (R40, R194). -/
abbrev Tile := BitVec 8192
/-- A stationary latch: 2 KiB (R40). -/
abbrev Stat := BitVec 16384
/-- One byte of memory. -/
abbrev Byte := BitVec 8
/-- A logical core identifier, used as an index (R14). -/
abbrev CoreId := Fin 1024

end Sys2Proof
end

