-- ==== Sys2Proof/Config.lean ====
section
/-! DEFINITION. What the spec leaves open: free values. Each is an opaque constant with no body, applied to the counter
`State.free` or to the operands it depends on, so that no proof can see what it is. -/

namespace Sys2Proof.Config

/-- A free bit: whether an engine's read of a byte that was stored meanwhile takes the new byte (R220), or whether an
access answered ERROR by a power loss had performed (R465). -/
opaque freeBool : Nat → Bool
/-- A free byte: a destination byte left by an engine operation that ended ERROR, or by an aborted collective use
(R222, R407). -/
opaque freeByte : Nat → Byte
/-- A free tile: an output of a matrix entry whose operands held an uncorrectable error (R366). -/
opaque freeTile : Nat → Tile
/-- A free signature with the identity key (R520): the key and the nonces are not given. -/
opaque freeSig : Nat → BitVec 1056
/-- The SHA-512 digest of the boot ROM (R520), whose contents are not given. -/
opaque romDigest : BitVec 512
/-- The latency in cycles of an access to host memory or to a peer (R397): no bound is given. -/
opaque freeLatency : Nat → Nat

/-- The way of a full set of an L2 slice whose line leaves (R322): no replacement is given. -/
opaque freeWay : Nat → Nat

/-- The reading of a core sensor in °C at an epoch boundary (R509): an input of the package. -/
opaque freeTemp : Nat → BitVec 8
/-- The power in mW that a tile's primaries ask for at an operating point, and the estimate for the rest of the module (R505): what
the energy reports hold and how they are scaled is not given. -/
opaque freePower : Nat → Nat → Nat
/-- The bytes of a vault row (R516): the size is not given. -/
opaque rowSize : Nat
/-- The bank of a vault row (R516): how rows lie in banks is not given. -/
opaque rowBank : Nat → Nat

end Sys2Proof.Config
end

