-- ==== Sys2Proof/Syntax.lean ====
section
/-! DEFINITION. The syntax of the VX-8's steps: one constructor of `Instr` per row of the table of operations and
events. An operation carries the decoded fields of its words (`Op`, R67 to R82). -/

namespace Sys2Proof

/-- The thread of a core (R17, R30): the primary, or scavenger 0 to 7. -/
inductive Thr where
  | prim
  | scav (k : Fin 8)
  deriving DecidableEq, Repr

/-- The prefix of an operation (R79). `latchx` carries `XA`, `XB`, `XC`; its `CLA`, `CLB` and `CNW` are folded into the
flags of the compact operation that follows (R78, R82). -/
inductive Pfx where
  | none
  | mod (rnd : BitVec 3) (sat : BitVec 2) (flush : Bool)
  | immx (hi : BitVec 23)
  | latchx (xa xb xc : Bool)
  deriving DecidableEq, Repr

/-- The fields of an operation. A compact operation stands with the fields of the 64-bit operation that it is exactly
equivalent to (R78). `imm` is `imm24` of a wide tail or `imm11` of `ADDI`. In a B-class head, bit 0 of `esz` is the drain
flag (R71, R88). -/
structure Op where
  compact : Bool
  pfx : Pfx
  pred : BitVec 4
  pneg : Bool
  nw : Bool
  dst : BitVec 6
  a : BitVec 6
  b : BitVec 6
  c : BitVec 6
  la : Bool
  lb : Bool
  lc : Bool
  esz : BitVec 2
  x12 : BitVec 12
  imm : BitVec 24
  deriving DecidableEq, Repr

/-- The steps of the machine: the operations of R92 and the events of the device. What an event concerns stands in the
agenda item that carries it (Machine/State.lean). -/
inductive Instr where
  /-- Unconditional relative branch. (R106) -/
  | br (op : Op)
  /-- Branch if any bit of a mask is set. (R106) -/
  | brp (op : Op)
  /-- Decrement a counter and branch while it is nonzero. (R106) -/
  | loop (op : Op)
  /-- Indirect branch to a register target. (R106) -/
  | bri (op : Op)
  /-- Relative call that writes a link. (R106) -/
  | call (op : Op)
  /-- Indirect call that writes a link. (R106) -/
  | calli (op : Op)
  /-- Return to a register target. (R106) -/
  | ret (op : Op)
  /-- Branch on a compare of two scalars. (R106) -/
  | brc (op : Op)
  /-- End the current body run. (R110) -/
  | tend (op : Op)
  /-- Raise TRAPI with a code. (R111) -/
  | trap (op : Op)
  /-- Raise SYSC with a code. (R111) -/
  | sys (op : Op)
  /-- No operation. (R112) -/
  | nopb (op : Op)
  /-- Return the supervisor from its handler. (R113) -/
  | eret (op : Op)
  /-- 64-bit add. (R114) -/
  | add (op : Op)
  /-- 64-bit subtract. (R114) -/
  | sub (op : Op)
  /-- Bitwise and. (R114) -/
  | and (op : Op)
  /-- Bitwise or. (R114) -/
  | or (op : Op)
  /-- Bitwise exclusive or. (R114) -/
  | xor (op : Op)
  /-- And with the complement. (R114) -/
  | andn (op : Op)
  /-- Signed minimum. (R114) -/
  | min (op : Op)
  /-- Signed maximum. (R114) -/
  | max (op : Op)
  /-- Unsigned minimum. (R114) -/
  | minn (op : Op)
  /-- Unsigned maximum. (R114) -/
  | maxn (op : Op)
  /-- Shift left. (R115) -/
  | shl (op : Op)
  /-- Logical shift right. (R115) -/
  | shr (op : Op)
  /-- Arithmetic shift right. (R115) -/
  | sar (op : Op)
  /-- Rotate left. (R115) -/
  | rotl (op : Op)
  /-- Count leading zeros. (R115) -/
  | clz (op : Op)
  /-- Count trailing zeros. (R115) -/
  | ctz (op : Op)
  /-- Count one bits. (R115) -/
  | popc (op : Op)
  /-- Extract a bit field. (R115) -/
  | ext (op : Op)
  /-- Insert a bit field. (R115) -/
  | ins (op : Op)
  /-- Multiply, low 64 bits. (R116) -/
  | mul (op : Op)
  /-- Signed multiply, high 64 bits. (R116) -/
  | mulh (op : Op)
  /-- Unsigned multiply, high 64 bits. (R116) -/
  | mulhn (op : Op)
  /-- Signed divide. (R116) -/
  | div (op : Op)
  /-- Unsigned divide. (R116) -/
  | divn (op : Op)
  /-- Signed remainder. (R116) -/
  | rem (op : Op)
  /-- Unsigned remainder. (R116) -/
  | remn (op : Op)
  /-- Add an immediate. (R117) -/
  | addi (op : Op)
  /-- Move a sign-extended immediate. (R118) -/
  | movi (op : Op)
  /-- Set the high 24 bits from an immediate. (R118) -/
  | movhi (op : Op)
  /-- Compare two scalars into a predicate. (R119) -/
  | cmp (op : Op)
  /-- Compare a scalar with an immediate into a predicate. (R119) -/
  | cmpi (op : Op)
  /-- Logic on two predicates. (R120) -/
  | plog (op : Op)
  /-- Move, pack or unpack predicates. (R121) -/
  | pmov (op : Op)
  /-- Select a scalar by a predicate. (R122) -/
  | sel (op : Op)
  /-- Floating-point add. (R124) -/
  | fadd (op : Op)
  /-- Floating-point subtract. (R124) -/
  | fsub (op : Op)
  /-- Floating-point multiply. (R124) -/
  | fmul (op : Op)
  /-- Fused multiply-add. (R124) -/
  | fma (op : Op)
  /-- Floating-point minimum. (R126) -/
  | fmin (op : Op)
  /-- Floating-point maximum. (R126) -/
  | fmax (op : Op)
  /-- Floating-point divide. (R124) -/
  | fdiv (op : Op)
  /-- Floating-point square root. (R124) -/
  | fsqrt (op : Op)
  /-- Floating-point compare into a predicate. (R127) -/
  | fcmp (op : Op)
  /-- Scalar conversion. (R128) -/
  | fcvt (op : Op)
  /-- Classify a floating-point value. (R129) -/
  | fclass (op : Op)
  /-- Read a control register. (R131) -/
  | mfc (op : Op)
  /-- Write a control register that has no row of its own. (R131) -/
  | mtc (op : Op)
  /-- Write MFMT after a shadow of four bundles. (R132) -/
  | msetf (op : Op)
  /-- Read TSC. (R133) -/
  | rdts (op : Op)
  /-- Read and clear a residue register. (R134) -/
  | rdres (op : Op)
  /-- Scalar load from the scratchpad. (R143) -/
  | ld (op : Op)
  /-- Scalar store to the scratchpad. (R143) -/
  | st (op : Op)
  /-- Contiguous vector load. (R145) -/
  | vld (op : Op)
  /-- Strided vector load. (R145) -/
  | vlds (op : Op)
  /-- Broadcast vector load. (R145) -/
  | vldb (op : Op)
  /-- Contiguous vector store. (R145) -/
  | vst (op : Op)
  /-- Strided vector store. (R145) -/
  | vsts (op : Op)
  /-- Indexed vector load. (R145) -/
  | vldx (op : Op)
  /-- Indexed vector store. (R145) -/
  | vstx (op : Op)
  /-- Acquire load at a scope. (R147) -/
  | ldacq (op : Op)
  /-- Release store at a scope. (R147) -/
  | strel (op : Op)
  /-- Load when full, and set empty. (R149) -/
  | ldf (op : Op)
  /-- Store when empty, and set full. (R149) -/
  | stf (op : Op)
  /-- Read a full-empty bit and optionally change it. (R152) -/
  | ldfe (op : Op)
  /-- Local atomic operation. (R155) -/
  | atom (op : Op)
  /-- Local compare-and-swap. (R155) -/
  | cas (op : Op)
  /-- Scavenger load through its cache. (R157) -/
  | ldc (op : Op)
  /-- Scavenger store through its cache. (R157) -/
  | stc (op : Op)
  /-- Write back or invalidate scavenger-cache lines. (R158) -/
  | flushc (op : Op)
  /-- Vector add. (R169) -/
  | vadd (op : Op)
  /-- Vector subtract. (R169) -/
  | vsub (op : Op)
  /-- Vector minimum. (R170) -/
  | vmin (op : Op)
  /-- Vector maximum. (R170) -/
  | vmax (op : Op)
  /-- Vector absolute value. (R170) -/
  | vabs (op : Op)
  /-- Vector negate. (R170) -/
  | vneg (op : Op)
  /-- Vector multiply. (R169) -/
  | vmul (op : Op)
  /-- Vector fused multiply-add. (R169) -/
  | vfma (op : Op)
  /-- Vector fused multiply-subtract. (R169) -/
  | vfms (op : Op)
  /-- Vector bitwise and. (R171) -/
  | vand (op : Op)
  /-- Vector bitwise or. (R171) -/
  | vor (op : Op)
  /-- Vector bitwise exclusive or. (R171) -/
  | vxor (op : Op)
  /-- Vector shift left. (R171) -/
  | vshl (op : Op)
  /-- Vector logical shift right. (R171) -/
  | vshr (op : Op)
  /-- Vector arithmetic shift right. (R171) -/
  | vsar (op : Op)
  /-- Vector compare into a mask. (R172) -/
  | vcmp (op : Op)
  /-- Vector select by a mask. (R173) -/
  | vsel (op : Op)
  /-- Logic on two masks. (R174) -/
  | klog (op : Op)
  /-- Count the live elements of a mask. (R174) -/
  | vpopk (op : Op)
  /-- Vector conversion by parts. (R175) -/
  | vcvt (op : Op)
  /-- Narrow two integer vectors with saturation. (R176) -/
  | vpack (op : Op)
  /-- Widen part of an integer vector. (R177) -/
  | vunpk (op : Op)
  /-- Vector reduction to a scalar. (R179) -/
  | vred (op : Op)
  /-- Vector scan. (R179) -/
  | vscan (op : Op)
  /-- Vector permute. (R180) -/
  | vperm (op : Op)
  /-- Vector slide with carry-in. (R181) -/
  | vslide (op : Op)
  /-- Vector compress by a mask. (R182) -/
  | vcompr (op : Op)
  /-- Extract a vector element to a scalar. (R183) -/
  | vext (op : Op)
  /-- Insert a scalar into a vector element. (R183) -/
  | vins (op : Op)
  /-- Vector move under a mask. (R184) -/
  | vmov (op : Op)
  /-- Broadcast a scalar to a vector. (R184) -/
  | vbcast (op : Op)
  /-- Vector 2^x. (R185) -/
  | vexp2 (op : Op)
  /-- Vector log2 x. (R185) -/
  | vlog2 (op : Op)
  /-- Vector reciprocal. (R185) -/
  | vrcp (op : Op)
  /-- Vector reciprocal square root. (R185) -/
  | vrsq (op : Op)
  /-- Vector tanh. (R185) -/
  | vtanh (op : Op)
  /-- Map values to order keys and back. (R187) -/
  | vord (op : Op)
  /-- Digit histogram of keys. (R188) -/
  | vhist (op : Op)
  /-- Enqueue a dense matrix step. (R198) -/
  | mma (op : Op)
  /-- Enqueue a sparse matrix step. (R199) -/
  | mmas (op : Op)
  /-- Enqueue a load of a stationary latch. (R203) -/
  | mlatch (op : Op)
  /-- Enqueue zeroing of a tile group. (R204) -/
  | mzero (op : Op)
  /-- Read half a tile into a vector. (R205) -/
  | mrd (op : Op)
  /-- Write half a tile from a vector. (R205) -/
  | mwr (op : Op)
  /-- Close the open batch. (R207) -/
  | mcommit (op : Op)
  /-- Wait for a batch, or for Q.MX to empty. (R208) -/
  | mwait (op : Op)
  /-- Enqueue a two-of-four compression. (R209) -/
  | mcmpr (op : Op)
  /-- Enqueue a byte copy. (R222) -/
  | xcp (op : Op)
  /-- Enqueue a row copy. (R223) -/
  | xcp2 (op : Op)
  /-- Enqueue a gather. (R224) -/
  | xga (op : Op)
  /-- Enqueue a scatter. (R224) -/
  | xsc (op : Op)
  /-- Enqueue a key-value gather. (R225) -/
  | xkvg (op : Op)
  /-- Enqueue a collective or barrier. (R226) -/
  | xcoll (op : Op)
  /-- Order the thread's ordinary accesses at a scope. (R230) -/
  | fence (op : Op)
  /-- Place join markers in the named queues. (R231) -/
  | xfence (op : Op)
  /-- Hand effects between the ordinary and engine domains. (R232) -/
  | xdfence (op : Op)
  /-- Wait for all of the thread's engine operations. (R233) -/
  | drain (op : Op)
  /-- Wait until durable-class writes reach the durability domain. (R233) -/
  | pfence (op : Op)
  /-- Issue a remote atomic. (R235) -/
  | ratom (op : Op)
  /-- Issue a dependence-counter decrement. (R237) -/
  | decr (op : Op)
  /-- Issue a remote load when full. (R238) -/
  | rldf (op : Op)
  /-- Issue a remote store when empty. (R238) -/
  | rstf (op : Op)
  /-- Send a message to a channel. (R239) -/
  | send (op : Op)
  /-- Push a value to a neighbour. (R240) -/
  | push (op : Op)
  /-- Pop a value from a receive queue. (R240) -/
  | pop (op : Op)
  /-- Try to push without waiting. (R242) -/
  | pusht (op : Op)
  /-- Try to pop without waiting. (R242) -/
  | popt (op : Op)
  /-- Wait until every masked tag is ready. (R244) -/
  | twaita (op : Op)
  /-- Wait until any masked tag is ready. (R244) -/
  | twaity (op : Op)
  /-- Find the lowest ready masked tag. (R244) -/
  | tfind (op : Op)
  /-- Clear the masked idle tags. (R244) -/
  | tclr (op : Op)
  /-- Wait for a work record's completion counter. (R247) -/
  | cntw (op : Op)
  /-- Submit a launch descriptor. (R245) -/
  | launch (op : Op)
  /-- Push a codelet message into the tile deque. (R246) -/
  | spawn (op : Op)
  /-- Cancel a work record, softly or hard. (R247) -/
  | cancel (op : Op)
  /-- Match tokens down the prefix tree. (R255) -/
  | kvmatch (op : Op)
  /-- Insert a sequence's blocks into the tree. (R256) -/
  | kvins (op : Op)
  /-- Reserve token slots, with copy-on-write. (R257) -/
  | kvapp (op : Op)
  /-- Release a sequence. (R259) -/
  | kvrel (op : Op)
  /-- Pin or unpin a block range. (R260) -/
  | kvpin (op : Op)
  /-- Demote blocks to the sump. (R262) -/
  | kvdem (op : Op)
  /-- Promote blocks to the gallery. (R262) -/
  | kvprom (op : Op)
  /-- End the scavenger's context and wait for a message. (R266) -/
  | waitw (op : Op)
  /-- Give up the next n owned turns. (R267) -/
  | yield (op : Op)
  /-- Change the scavenger's workspace pointer. (R268) -/
  | setwp (op : Op)
  /-- Write a checkpoint to the Flowstone layer. (R263) -/
  | pckpt (op : Op)
  /-- Read or write a halted thread's state. (R271) -/
  | svwin (op : Op)
  /-- Resume a halted thread by return, skip or end. (R272) -/
  | svres (op : Op)
  /-- Invalidate translation-buffer entries package-wide. (R273) -/
  | xlinv (op : Op)
  /-- The sequencer fetches the next bundle, finds its edges from the S bits, decodes it and assigns its operations to slots. (R68) -/
  | bundleFetch
  /-- The countdown of an exposed result expires, and the result becomes readable in its register or latch. (R19) -/
  | resultLanding
  /-- The last exposed result lands after a branch with the drain flag, and the first target bundle issues. (R29) -/
  | drainWaitEnd
  /-- The condition of a held bundle holds, and the bundle issues. (R47) -/
  | blockingPointRelease
  /-- The QLIMIT bound of a queue, buffer, batch or hold wait expires, and QSTALL is raised with the operation incomplete, or the scavenger halts. (R219) -/
  | qstall
  /-- The FELIMIT bound of a full-empty wait expires, and FEWAIT is raised, or the scavenger halts. (R150) -/
  | fewait
  /-- The QLIMIT bound of a port hold expires, and PORTSTALL is raised with the waiting port operations incomplete. (R444) -/
  | portstall
  /-- A cycle gives one scavenger of each core its turn in the empty slots that the primary advertised. (R34) -/
  | barrelTurn
  /-- The waiting access of a scavenger operation succeeds, and the rest of the operation's window proceeds. (R522) -/
  | scavengerAccessRetry
  /-- A scavenger divide or square root is ready L cycles after its last source read, and it writes its destination. (R36) -/
  | scavengerLongResult
  /-- The two turns forfeited to the tile normaliser pass, and the scavenger is ready again. (R37) -/
  | normaliserForfeitEnd
  /-- The n owned turns of a YIELD pass, and the scavenger is ready again. (R267) -/
  | yieldEnd
  /-- At the thread's next owned turn a pending change of WP stores the old resume address and loads the new one. (R31) -/
  | wpSwitch
  /-- A scavenger-cache fill or burst flit arrives, fills the line and readies the waiting threads. (R157) -/
  | scavengerCacheFill
  /-- The home acknowledges a scavenger-cache write-back, or reports its failure under R160. (R158) -/
  | scavengerCacheWritebackAck
  /-- A message arrives at its core, is checked against its channel, and enters the ready ring, goes to a waiting thread, or is refused. (R296) -/
  | messageArrival
  /-- Sixteen cycles after a refusal, the sender's network interface sends the refused message again. (R297) -/
  | messageRefusalResend
  /-- The tile dispenser pairs a selected message or deque entry with a waiting thread, takes a slot and begins the delivery writes. (R299) -/
  | dispatch
  /-- The last delivery write performs, and the thread's first codelet operation may issue at its next owned turn. (R299) -/
  | deliveryComplete
  /-- A Roundhouse offer reaches a free core, and the core's fetcher sends its join claim. (R291) -/
  | launchOffer
  /-- A claim reaches the launch's Roundhouse and is granted a chunk of indices, a returned chunk, or nothing. (R290) -/
  | nestClaim
  /-- A claim's answer returns to the core's fetcher, which holds the chunk or ends the task when nothing remains. (R291) -/
  | claimResponse
  /-- The fetcher writes ix, iy and iz from a claimed coordinate, and the body's entry bundle issues. (R110) -/
  | bodyEntry
  /-- A Roundhouse serves a LAUNCH, allocates a launch record and writes its id, or writes all ones on failure. (R245) -/
  | launchAllocation
  /-- A Roundhouse applies a soft or hard cancel to a record and to every incomplete record below it. (R494) -/
  | cancelApply
  /-- A hard-cancel message reaches a core, which pre-empts and discards the covered unit and drops its claimed coordinates. (R494) -/
  | hardCancelPreemption
  /-- A core's acknowledgement of a hard cancel reaches the Roundhouse, which completes the CANCEL tag once it holds every acknowledgement. (R494) -/
  | hardCancelAck
  /-- A unit's end reaches its Roundhouse, and the launch's completion counter falls by one. (R490) -/
  | unitEndReport
  /-- System software writes a job, graph, phase or launch record to allocate, close or free it. (R492) -/
  | workRecordWrite
  /-- An engine queue entry starts once the entry ahead of it has completed. (R217) -/
  | queueEntryStart
  /-- An engine or injection-buffer operation completes, leaves its queue or buffer and completes its tag. (R217) -/
  | engineOperationComplete
  /-- A Q.MX entry starts its array phase. (R201) -/
  | matrixArrayStart
  /-- A step's array phase ends; its operand guard is released and the held engine writes perform. (R202) -/
  | matrixArrayEnd
  /-- A matrix entry completes, writes its results and leaves Q.MX. (R201) -/
  | matrixEntryComplete
  /-- A request reaches its home port, is translated, checked and performed, and is answered. (R397) -/
  | remoteAccessAtHome
  /-- A remote atomic performs indivisibly at its home, and the old value returns. (R235) -/
  | ratomAtHome
  /-- A DECR decrements a counter record at its home and sends its message when the count reaches zero. (R237) -/
  | decrAtHome
  /-- An RLDF or RSTF reaches its owning scratchpad and performs, parks, or is refused. (R238) -/
  | fullEmptyRemoteArrival
  /-- After its full-empty bit changes, a parked access performs in arrival order and leaves the park table. (R336) -/
  | parkedAccessService
  /-- The bound of a parked access expires, and the access completes ERROR with no effect. (R337) -/
  | parkBoundExpiry
  /-- A request refused by a full park table or a full gated-tile edge is sent again 16 cycles later. (R337) -/
  | parkRefusalResend
  /-- A translation-fault notice reaches a router, where it merges or is forwarded, or it becomes an XLATE record at the supervisor. (R332) -/
  | faultNotice
  /-- A write of XWAKE with OUT 0 sends a retry wake for a key back down the combining tree. (R334) -/
  | xwakeRetry
  /-- A write of XWAKE with OUT 1 sends a refusing wake for a key back down the combining tree. (R334) -/
  | xwakeRefuse
  /-- A wake reaches a requester's network interface, which resends each waiting access or completes it ERROR. (R334) -/
  | wakeAtRequester
  /-- An XCOLL at the head of Q.CO reads its source, once the previous use has released, and contributes to the tree. (R227) -/
  | collectiveSourceRead
  /-- The root combines every contribution, checks that they agree, converts the result once and sends it back. (R404) -/
  | collectiveRootCombine
  /-- A result or release packet reaches a member, which writes its destination, completes its tag and releases the use. (R405) -/
  | collectiveResultArrival
  /-- A write configures a collective group entry, refused while a use is open. (R402) -/
  | collectiveGroupWrite
  /-- A write of ABORT ends every open use of the group, completing each of its XCOLLs ERROR. (R407) -/
  | collectiveAbort
  /-- A pushed value becomes poppable at the receiver Lat cycles after the push. (R443) -/
  | portValueArrival
  /-- A credit freed by a pop returns to the sender Lat cycles later. (R443) -/
  | portCreditReturn
  /-- A write of a flush bit of PORTQ discards the queue's values and returns their credits. (R446) -/
  | portqFlush
  /-- A pager request arrives at the Junction, whose control unit checks it, allocates and starts its copies. (R252) -/
  | pagerRequestArrival
  /-- The 65,536-cycle reclaim wait of a request expires with blocks still missing, and the request completes ERROR. (R427) -/
  | evictionWaitExpiry
  /-- A block copier finishes copying one block's slabs. (R430) -/
  | blockCopyDone
  /-- A pager request's table changes take effect as one indivisible step, and its results are written. (R252) -/
  | junctionCompletionPoint
  /-- A core reports the issue stamp of its oldest incomplete XKVG, on change or every 1,024 cycles, and WLOW is updated. (R429) -/
  | xkvgLowWaterReport
  /-- A reclaim entry is reclaimed once WLOW reaches s + 2, freeing a held block or an old place. (R429) -/
  | reclaim
  /-- The Junction periodically clamps TOUCH stamps older than 2^26 units. (R420) -/
  | touchClamp
  /-- A write to an arena descriptor sets fields, puts the arena in service after its checks, or takes it out of service. (R415) -/
  | arenaDescriptorWrite
  /-- After Q.MX drains, a checkpoint freezes the barrel and begins the capture, log, commit and apply phases. (R263) -/
  | checkpointFreeze
  /-- The mark phase ends, APPLIED is set, and the PCKPT hold ends with its sequence number. (R461) -/
  | checkpointEnd
  /-- A power-fail warning stops the tile and decides the Flowstone record in progress before supply is lost. (R465) -/
  | powerFailWarning
  /-- When power is good again, each core chooses its newest commit, re-applies its log if needed, and resumes. (R466) -/
  | powerGoodResume
  /-- The power controller gates an idle tile after a gating checkpoint. (R472) -/
  | powerGating
  /-- A request that reaches a gated tile wakes it, and its parked requests are served in arrival order. (R473) -/
  | tileWake
  /-- After Q.MX drains, a capture writes the primary's frame and extension. (R379) -/
  | captureStart
  /-- The frame and extension writes have performed, and the capture ends. (R379) -/
  | captureEnd
  /-- A captured context is read back and resumes at its resume address. (R384) -/
  | contextResume
  /-- An arriving notice or record is written into the supervisor's ring, and TAIL advances. (R368) -/
  | ringRecordWrite
  /-- With a record pending and the handler idle and enabled, the supervisor's primary captures and enters its handler. (R369) -/
  | supervisorHandlerEntry
  /-- The management controller logs a supervisor's own fault and restarts that supervisor's primary. (R518) -/
  | supervisorRestart
  /-- An MTC with OP 0 to a block table entry sets V and PBLK. (R314) -/
  | sbtMap
  /-- An MTC with OP 1 spills a physical block into an L2 way. (R314) -/
  | sbtSpill
  /-- An MTC with OP 2 fills a physical block back from its L2 way. (R314) -/
  | sbtFill
  /-- A spill or fill ends after 512 cycles, and BSY clears. (R314) -/
  | spillFillDone
  /-- A write of a channel entry assigns, blocks or reassigns a channel as one indivisible change. (R294) -/
  | taskTableWrite
  /-- A write of a core group, gallery region or root register updates every network-interface copy before it completes. (R321) -/
  | memoryMapTableWrite
  /-- A 64-byte host write to a window slot posts a message to the station core, or is counted as busy or malformed. (R483) -/
  | hostMessagePost
  /-- A host CXL.mem access to an HDM range is translated and performed at its home. (R482) -/
  | hostMemoryAccess
  /-- A read of a signal-box semaphore acquires it if it is free and returns GOT. (R487) -/
  | semaphoreRead
  /-- A write by the owner releases a signal-box semaphore. (R487) -/
  | semaphoreRelease
  /-- A host link goes down; its slots are discarded, its semaphores released, and its accesses in flight retried or failed. (R517) -/
  | hostLinkDown
  /-- A station-core write of PWCAP sets the rack cap and its expiry. (R475) -/
  | pwcapWrite
  /-- At each 10 µs epoch, the power controller sets operating points, thermal caps, grants and scavenger tokens. (R505) -/
  | epochBoundary
  /-- The 1 µs clock stop of a point change ends, and the tile runs at its new point. (R504) -/
  | clockStopEnd
  /-- A write of MREQ requests a service migration of the identity at a position. (R510) -/
  | migrationRequest
  /-- An identity is drained, captured, copied to a free position and resumed there. (R511) -/
  | migration
  /-- An uncorrectable soft error is detected and handled by its store's rule. (R514) -/
  | uncorrectableError
  /-- A vault row with an uncorrectable error is replaced by a spare within 1 ms. (R516) -/
  | spareRowReplacement
  /-- A peer link with a retired lane retrains at 4 lanes. (R516) -/
  | peerLinkRetrain
  /-- A host reset through either port restarts the module after a temperature shutdown. (R501) -/
  | hostReset
  /-- At power-on the boot ROM verifies firmware and boots the module, or enters recovery. (R519) -/
  | powerOnBoot
  /-- The loader checks a Usivicel image whole and either refuses it or writes it and allocates its launches. (R499) -/
  | imageLoad
  /-- The SPDM GET_VERSION request over DOE. (R520) -/
  | getVersion
  /-- The SPDM GET_CAPABILITIES request over DOE. (R520) -/
  | getCapabilities
  /-- The SPDM NEGOTIATE_ALGORITHMS request over DOE. (R520) -/
  | negotiateAlgorithms
  /-- The SPDM GET_DIGESTS request over DOE. (R520) -/
  | getDigests
  /-- The SPDM GET_CERTIFICATE request over DOE. (R520) -/
  | getCertificate
  /-- The SPDM CHALLENGE request over DOE. (R520) -/
  | challenge
  /-- The SPDM GET_MEASUREMENTS request over DOE. (R520) -/
  | getMeasurements
  /-- The copy of a migrating identity's state ends about 33,000 cycles after it began; both table entries change in one step, the held accesses are sent on to the new position, and the MOVED record is sent. (R511) -/
  | moveCopyEnd
  /-- The gating checkpoint of a tile ends and its supply is removed, and a wake that arrived during gating then begins. (R473) -/
  | gatingEnd
  /-- In recovery, a DOE mailbox request writes a new firmware image into slot 1. (R519) -/
  | recoveryImageWrite
  deriving DecidableEq, Repr

end Sys2Proof
end

