-- ==== Sys2Proof/Machine/State.lean ====
section
/-! DEFINITION. The state of the package as plain data: 768 cores (held by logical identifier), tiles, dies, the Terminus
die, memory, and the model's own agenda of steps due. -/

namespace Sys2Proof.Machine

open Sys2Proof

/-! ## What an agenda item carries -/

/-- A message on its way (R296): target word of R236, arguments, stamp of the origin, sender (`0x3FF` for a host port),
origin code of R301, sending thread, and the sender's own reference: an injection entry or a window slot. -/
structure Msg where
  target : Word
  args : Vector Word 4
  stamp : Word
  src : BitVec 10
  orig : BitVec 3
  thr : Thr
  ref : Nat
  deriving DecidableEq, Repr

/-- Coordinates granted by a claim (R290, R292): runs of linear indices, each first index and count. -/
abbrev Grant := List (Nat × Nat)

/-- A cancel in progress (R494): the issuing core and its injection entry. -/
structure CancelRef where
  core : CoreId
  id : Nat
  deriving DecidableEq, Repr

/-- The four levels of the work hierarchy (R488). -/
inductive Level where
  | launch
  | graph
  | phase
  | job
  deriving DecidableEq, Repr

/-- The engine queues of a core (R217, R251). -/
inductive QKind where
  | cp
  | ga
  | co
  | kv
  deriving DecidableEq, Repr

/-- A router, by its package column and row (R394). -/
structure RouterPos where
  px : Nat
  py : Nat
  deriving DecidableEq, Repr

/-- A fault notice (R332, R333). -/
structure Notice where
  key : BitVec 40
  src : BitVec 10
  home : BitVec 10
  level : BitVec 3
  kind : BitVec 3
  addr : BitVec 56
  stamp : Word
  deriving DecidableEq, Repr

/-- A record of 64 bytes on its way to a supervisor's ring (R368). -/
abbrev Rec64 := Vector Word 8

/-- The two host ports (R482). -/
inductive HostPort where
  | portA
  | portB
  deriving DecidableEq, Repr

/-- A CXL.mem access of a host port (R482): range 0 is the gallery, range 1 the sump. -/
inductive HostAccess where
  | read (sump : Bool) (off len : Nat)
  | write (sump : Bool) (off : Nat) (bytes : List Byte)
  deriving DecidableEq, Repr

/-- An agent of the signal box (R486). -/
inductive SemAgent where
  | port (p : HostPort)
  | core (c : CoreId)
  deriving DecidableEq, Repr

/-- The stores of R514, with the `UNIT` codes of R515 in their order. -/
inductive ErrUnit where
  | scratchpad
  | registers
  | l2
  | vault
  | sump
  | flowstone
  | scavCache
  | link
  | matrix
  deriving DecidableEq, Repr

/-- A soft error (R514): the detecting core (`0x3FF` for the Terminus die), the store and the address; of a register the selector of R270
(log 126). -/
structure SoftError where
  core : BitVec 10
  unit : ErrUnit
  addr : BitVec 56
  deriving DecidableEq, Repr

/-- A Usivicel image, as its bytes (R496). -/
abbrev Image := List Byte

/-- A resident program (R476, R477, R519): the sections of its image for its core (code, block table, data, channels), and its entry. -/
structure Program where
  code : List IWord
  entry : Word
  sbt : List Word
  data : List (Nat × List Byte)
  chans : List (Nat × Word × Word)
  deriving DecidableEq, Repr

/-- A firmware image (R519): the bytes that are signed, the public key and the signature (r, s) that come with them, whether its header is well
formed, its security version, and what it loads: where they stand in the bytes has no rule (DESIGN CHOICE, log 109). -/
structure Firmware where
  body : List Byte
  key : Nat × Nat
  sig : Nat × Nat
  headerOk : Bool
  version : Nat
  leakage : Vector Word 80
  safeBudget : BitVec 12
  supervisor : Program
  station : Program
  deriving DecidableEq, Repr

/-- An answer of the attestation responder (R520): the version, what it can do, the algorithms, the digest of the certificate chain, the chain,
a signature, and the measurements: the digests of the boot ROM, of the firmware image, of the station and supervisor programs, the fuse
state, and a signature. -/
inductive SpdmAnswer where
  | version (major minor : Nat)
  | capabilities (sessions keyExchange : Bool)
  | algorithms (curve hash : Nat)
  | digests (chain : BitVec 512)
  | certificate (chain : List Byte)
  | challenge (signature : BitVec 1056)
  | measurements (rom firmware station supervisor : BitVec 512) (fused : Nat) (fusedKey : BitVec 512) (signature : BitVec 1056)
  deriving DecidableEq, Repr

/-- The operations that wait in the engine queues, the injection buffer and the scavenger cache's network side. -/
inductive PKind where
  | xcp
  | xcp2
  | xga
  | xsc
  | xkvg
  | xcoll
  | marker
  | kvmatch
  | kvins
  | kvapp
  | kvrel
  | kvpin
  | kvdem
  | kvprom
  | ratom
  | decr
  | rldf
  | rstf
  | send
  | launch
  | cancel
  | xlinv
  | svres
  | fill
  | writeBack
  deriving DecidableEq, Repr

/-- One move of a copy, a gather or a scatter: source and destination addresses, bytes, and whether its source could be
read (R222 to R225). -/
structure Move where
  src : Nat
  dst : Nat
  len : Nat
  ok : Bool
  deriving DecidableEq, Repr

/-- The interface that sends a message (R236, R237, R320): a core's, the one of a vault at its home position, the Terminus die's, a peer
module's. -/
inductive Sender where
  | core (c : CoreId)
  | vault (c : CoreId)
  | terminus
  | peer
  deriving DecidableEq, Repr

/-- The message of a `SEND` or of a `DECR` that reached zero, until it is accepted (R297): the interface that sends it, its place among its
requester's messages, whether it has been refused, whether its interface holds it behind an earlier one, and whether it has been accepted. -/
structure Mail where
  ni : Sender
  seq : Nat
  msg : Msg
  refused : Bool
  held : Bool
  taken : Bool
  deriving DecidableEq, Repr

/-- A queued engine operation: the values read at its bundle, the block mapping resolved at issue (R220), its moves, the bytes
read, and its progress: `writing` once its sources have been read, `performed` once its effects have. `waits` are the entries a
join marker waits for (R231), `refused` the keys whose wakes refused its accesses (R334), `legs` how many homes' ports have still to begin
its present accesses (R397). -/
structure Pend where
  id : Nat
  kind : PKind
  thr : Thr
  tag : Nat
  x12 : BitVec 12
  esz : BitVec 2
  a : Word
  b : Word
  c : Word
  ws : List Word
  data : List Byte
  moves : List Move
  sbt : Vector Word 64
  prot : Bool
  issued : Nat
  stamp : Word
  started : Bool
  writing : Bool
  performed : Bool
  refused : List (BitVec 40)
  retried : Bool
  err : Bool
  waits : List Nat
  unit : Option Nat
  bound : Nat
  legs : Nat
  mail : Option Mail
  deriving DecidableEq, Repr

/-- What an agenda item concerns beside its core, thread and numbers. -/
inductive Payload where
  | none
  | msg (m : Msg)
  | grant (g : Grant)
  | cancel (r : CancelRef)
  | notice (at_ : RouterPos) (side : Nat) (n : Notice)
  | record (r : Rec64)
  | vec (v : Vec)
  | host (a : HostAccess)
  | sem (g : SemAgent)
  | words (ws : List Word)
  | bytes (bs : List Byte)
  | error (e : SoftError)
  | image (im : Image)
  | firmware (f : Firmware)
  | level (l : Level)
  | queue (q : QKind)
  | pend (p : Pend)
  deriving DecidableEq, Repr

/-- The arguments of an event: the core, the thread, a host port, two numbers, a direction or another small number, a
doubleword, and the payload. Each event's meaning says which it reads. -/
structure EvArg where
  core : CoreId
  thr : Thr
  port : HostPort
  id : Nat
  n : Nat
  k : Nat
  dw : Word
  load : Payload
  deriving DecidableEq, Repr

/-- Arguments that name a core only. -/
def EvArg.ofCore (c : CoreId) : EvArg :=
  { core := c, thr := .prim, port := .portA, id := 0, n := 0, k := 0, dw := 0, load := .none }

/-- A step that is due: its cycle, its place within the cycle (0 completions, 1 primaries, 2 the network interface and the
engines, 3 scavengers' turns and the dispenser, 4 what scavengers wait for, from 5 on the accesses of scavengers by their turns), the
step and its arguments. -/
structure Item where
  due : Nat
  prio : Nat
  what : Instr
  arg : EvArg
  deriving DecidableEq, Repr

/-! ## Tags, results in flight, fault records -/

/-- A completion tag (R215). Status: 0 OK, 1 RETRIED, 2 ERROR, 3 LOST. `doneAt` is the cycle after that of the latest completion. -/
structure Tag where
  ready : Bool
  status : BitVec 2
  count : Nat
  stamp : Word
  doneAt : Nat
  deriving DecidableEq, Repr

/-- The destination of a result in flight (R371). -/
inductive RFile where
  | s
  | p
  | v
  | k
  | tileHalf
  | mfmt
  | pAll
  | ctl
  deriving DecidableEq, Repr

/-- A result in flight (R371). `reg` is the register or tile number, `half` the tile half, `creg` the control register. -/
structure Flight where
  slot : Nat
  file : RFile
  reg : BitVec 6
  half : Bool
  creg : BitVec 12
  nw : Bool
  lcd : Nat
  rcd : Nat
  flg : BitVec 6
  val : Vec
  deriving DecidableEq, Repr

/-- A fault record (R370, R371): the header doublewords and, for a primary, the latches and flight entries it ends with.
`enc` says that it arose before its bundle issued (R373), `received` that its notice stands in the ring, `moved` that the
supervisor has written the resume address (R271). -/
structure FaultRec where
  code : BitVec 8
  sub : BitVec 8
  slot : BitVec 4
  baddr : Word
  waddr : Word
  info : Word
  stamp : Word
  bt1 : Word
  bt2 : Word
  done : BitVec 10
  pres : BitVec 10
  drn : Bool
  cw2 : IWord
  elem : BitVec 9
  latches : List Vec
  flight : List Flight
  enc : Bool
  received : Bool
  moved : Bool
  deriving DecidableEq, Repr

/-! ## The primary -/

/-- What the primary is doing (R17): nothing, issuing, in a drain wait (R29), halted by a fault, being captured, held by a
checkpoint, or waiting for a body entry. -/
inductive PMode where
  | idle
  | running
  | drain
  | halted
  | capturing
  | checkpoint
  | entering
  deriving DecidableEq, Repr

/-- Pending branch targets (R28, R370). `drn2` is the drain flag of the second branch; `src1` and `src2` are the branches'
own addresses, for `MISTARGET` (R87). -/
structure Pending where
  bt1 : Option Word
  gap : Bool
  drn : Bool
  src1 : Word
  bt2 : Option Word
  drn2 : Bool
  src2 : Word
  deriving DecidableEq, Repr

/-- A hold at a blocking point or a scavenger's bounded wait (R47): its first cycle, its bound, and the trap that its
bound raises (0 for a wait without a bound) with that trap's `INFO`. -/
structure Hold where
  since : Nat
  bound : Nat
  code : BitVec 8
  info : Nat
  deriving DecidableEq, Repr

/-- The architectural registers of the primary (R40). -/
structure Regs where
  s : Vector Word 64
  p : BitVec 16
  v : Vector Vec 64
  k : Vector Mask 16
  a : Vector Tile 32
  b : Vector Stat 4
  ix : BitVec 32
  iy : BitVec 32
  iz : BitVec 32
  latch : Vector Vec 10
  deriving DecidableEq, Repr

/-- The tile task of a primary (R288 to R292): the launch, its body entry, its claimed coordinates, whether a body run is
in progress, a claim on its way, whether the launch granted nothing more, and whether a body entry has been made. -/
structure Task where
  launch : Nat
  entry : Word
  chunk : Grant
  body : Bool
  claiming : Bool
  dry : Bool
  begun : Bool
  deriving DecidableEq, Repr

/-- The primary: registers, results in flight, control state, control registers of R42, tags, ports and task. `marks` are the
join markers that a held `XFENCE.wait` has placed (R231); `lastSlots` are the slots that the bundle issued in cycle
`lastIssue` filled (R34); `owesDrain` says that a drain wait comes before the next bundle (R29); `endOwed` that a `TEND` of a bundle that trapped was
performed (R103, R110); `spacing` counts the bundles in
which no strided or indexed operation may stand (R141); `regErr` lists the registers and latches that hold an uncorrectable error, each as its
selector of R270 (R514, log 126). -/
structure Prim where
  regs : Regs
  flight : List Flight
  pc : Word
  mode : PMode
  br : Pending
  entryFrom : Option Word
  hold : Option Hold
  replay : BitVec 10
  omitAt : Option Word
  spacing : Nat
  owesDrain : Bool
  endOwed : Bool
  lastSlots : BitVec 10
  lastIssue : Nat
  wawseen : Bool
  mxerr : Bool
  mfmt : Word
  fpstat : BitVec 6
  fpxen : BitVec 6
  tags : Vector Tag 64
  commits : Nat
  given : BitVec 4
  portq : Vector (List Vec) 4
  credits : Vector Nat 4
  marks : List Nat
  fault : Option FaultRec
  task : Option Task
  regErr : List Word
  deriving DecidableEq, Repr

/-! ## Scavengers -/

/-- The states of R293. `notReady mem` counts wasted turns in `RES.MEM` when `mem` holds (R38). -/
inductive ScavSt where
  | waiting
  | ready
  | notReady (mem : Bool)
  | yielding (n : Nat)
  | forfeit (n : Nat)
  | halted
  deriving DecidableEq, Repr

/-- A destination access of a scavenger's operation (R31, R36): a register's doubleword at its program address, with the flags that
land with it, or the load of the next program counter from a new workspace. -/
inductive Dest where
  | reg (at_ : Nat) (x : Word) (flg : BitVec 6)
  | pc (w : Word)
  deriving DecidableEq, Repr

/-- An operation of the bundle being performed: its slot (0 to 9 in the order of R27) and its first word. -/
structure IssOp where
  slot : Nat
  waddr : Word
  instr : Instr
  deriving DecidableEq, Repr

/-- The window of a scavenger's operation in flight (R36, R522): the cycle of its turn and of its latest access, the operation (none
for a change of `WP` made in place of one, R31) and the address after it, the registers still to be read and the values read, how
many doublewords of its arguments are still to be read before the access that performs it, whether it is performed, the destination
accesses still to be made, whether the limit of seven cycles no longer holds, the time base in the cycle of its turn, and the thread's state after it. The cycles are those of
the tile's clock. -/
structure Win where
  turn : Nat
  last : Nat
  op : Option IssOp
  next : Word
  todo : List (BitVec 6)
  got : List (BitVec 6 × Word)
  extra : Nat
  done : Bool
  dests : List Dest
  late : Bool
  stamp : Word
  after : ScavSt
  deriving DecidableEq, Repr

/-- A scavenger (R30, R32). Its registers lie in scratchpad memory at `wp`. `code` is the code section of the image of its codelet, which
a change of launch on the primary leaves alone (R287); `chan` is the channel and slot its delivery
took (R298); `slot` the slot that its waiting operation issued into, `freeFrom` the first cycle in which a waiting thread can
take a delivery (R298), `ask` an uncached access of domain `0x7`: on its way (`some none`), or answered with a doubleword or an error
(R157). -/
structure Scav where
  wp : Word
  pc : Word
  code : List IWord
  st : ScavSt
  pendWp : Option Word
  entryFrom : Option Word
  omitAt : Option Word
  tags : Vector Tag 8
  fpstat : BitVec 6
  fpxen : BitVec 6
  res : Vector (BitVec 32) 5
  portq : Vector (List Word) 4
  credits : Vector Nat 4
  chan : Option (Nat × Nat)
  wait : Option Hold
  slot : Nat
  freeFrom : Nat
  marks : List Nat
  fault : Option FaultRec
  win : Option Win
  ask : Option (Option (Option Word))
  deriving DecidableEq, Repr

/-! ## Engines of a core -/

/-- The kinds of matrix queue entry (R189). -/
inductive MKind where
  | mma
  | mmas
  | mzero
  | mlatch
  | mcmpr
  deriving DecidableEq, Repr

/-- An entry of `Q.MX` (R198 to R204, R209): its values, format and mapping at its bundle, its batch, the cycles of its
array phase and completion (R201), and the operand bytes read in its array phase. An entry that another context of the core has left has no
batch (R207). -/
structure MEntry where
  id : Nat
  kind : MKind
  base : Nat
  mt : Nat
  nt : Nat
  latch : Option (Fin 4)
  z : Bool
  esz : BitVec 2
  ty : Nat
  mfmt : Word
  a : Nat
  b : Nat
  geom : Word
  sbt : Vector Word 64
  batch : Option Nat
  enq : Nat
  start : Nat
  finish : Nat
  complete : Nat
  bad : Bool
  bytesA : List Byte
  bytesB : List Byte
  deriving DecidableEq, Repr

/-- A line of the scavenger cache (R156): 32 bytes of a global address, byte-dirty mask, writer mask. The cache lists the
most recently used line first. `readers` are the threads for which alone a line stands that was fetched before an acquire of the core
and arrived after it (R348). -/
structure CLine where
  addr : Nat
  data : BitVec 256
  dirty : BitVec 32
  writers : BitVec 8
  readers : Option (BitVec 8)
  deriving DecidableEq, Repr

/-- An entry of the park table (R336). `seen` says that its bit was right at the end of the cycle before (R153). -/
structure Park where
  src : CoreId
  id : Nat
  isStore : Bool
  off : Nat
  data : Word
  due : Nat
  seen : Bool
  deriving DecidableEq, Repr

/-- An entry of a translation buffer (R325): domain, core field, page base, page shift, leaf, and the cycle in which the walk that
gave it ends (R330). -/
structure TbEnt where
  dom : Nat
  base : Nat
  shift : Nat
  leaf : Word
  readyAt : Nat
  deriving DecidableEq, Repr

/-- A walk that ends in a fault or a refusal (R330): the number of its space, its 64 KiB page and the cycle in which it ends. Until then other
accesses that miss on the page wait for it. -/
structure Walk where
  dom : Nat
  page : Nat
  ends : Nat
  deriving DecidableEq, Repr

/-- A channel of the task table (R294), with the code section in which its entry is an offset: that of the image which wrote it (log
103). -/
structure Chan where
  entry : Word
  code : List IWord
  v : Bool
  blk : Bool
  pri : BitVec 2
  gen : BitVec 12
  busy : BitVec 8
  nws : BitVec 3
  wsz : BitVec 16
  wsb : BitVec 21
  deriving DecidableEq, Repr

/-- What engine reads may still find in place of bytes that a thread has stored, or that an engine or the network wrote
(R220): the writing thread if it was one, the operations ordered behind the engine operation that wrote, which do not find them (R217,
R231, R346), the count of operations issued before the write and before the thread's next `XDFENCE`, the key of the first byte, the old
bytes. -/
structure OldBytes where
  thr : Option Thr
  behind : List Nat
  at_ : Nat
  fenced : Option Nat
  key : Nat
  old : List Byte
  deriving DecidableEq, Repr

/-- A captured context (R379 to R382): the frame lies at the key `frameAt` of the scratchpad or, with `slot`, at the global
address `frameAt` of its launch's save slot, with the extension after it (R381); `at_` is the time base at the capture; `idle` marks an idle
primary's; `keep` is the context, of which the frame and the extension are written, and which holds what they do not: counts of tags, the
task, the fault record; `back` is the resume address that the frame was written with (R373, R380). -/
structure Captured where
  frameAt : Nat
  slot : Bool
  keep : Prim
  at_ : Word
  cause : BitVec 8
  idle : Bool
  back : Word
  deriving DecidableEq, Repr

/-! ## Flowstone -/

/-- What a checkpoint captures of a core's threads (R263, R458): of the primary what the frame and the extension do not place is read
back from here, and of the scavengers, the queues and the outstanding tags everything, since R458 gives them no layout (log 20).
`gating` marks a gating checkpoint (R472). -/
structure Snap where
  prim : Prim
  scav : Vector Scav 8
  owed : List (Thr × Nat)
  sbt : Vector Word 64
  qlimit : BitVec 32
  felimit : BitVec 32
  gating : Bool
  deriving DecidableEq, Repr

/-- How a commit slot counts beside its bytes (log 22): as it reads, passed over since its checkpoint ended under R265, or as the
`OPEN` record that stays newest (R464). -/
inductive Fate where
  | stands
  | passedOver
  | stillOpen
  deriving DecidableEq, Repr

/-- A checkpoint in progress (R263, R461): whether the barrel is frozen, the mesh cycle in which its step 3 began, the cycle of
the tile's clock in which its hold began, the `TSC` of step 3, its register, its sequence number, its lines, whether a write has failed, and the threads as captured. -/
structure Ckpt where
  frozen : Bool
  began : Nat
  heldAt : Nat
  stamp : Word
  dst : BitVec 6
  seq : Nat
  lines : List Nat
  failed : Bool
  snap : Option Snap
  deriving DecidableEq, Repr

/-- What a core's Flowstone area holds beside its bytes (R457), which stand in memory: of each commit slot the part of its extension that
has no layout, and how the slot counts. -/
structure Flow where
  snaps : Vector (Option Snap) 2
  fates : Vector Fate 2
  deriving DecidableEq, Repr

/-! ## A core -/

/-- A migration in progress (R511): the position it goes to, its reason, the identity with which it is exchanged, whether accesses
are held, and whether this identity is the one exchanged. -/
structure MoveSt where
  dest : Nat
  why : Nat
  peer : Option CoreId
  held : Bool
  swapped : Bool
  deriving DecidableEq, Repr

/-- The registers of a core that its threads share: block table and protection unit (R313, R315), bounds (R42), capture
base, watch (R376), supervisor ring (R367), operating point request (R503). -/
structure CoreCtl where
  sbt : Vector Word 64
  prb : Vector Word 16
  prp : Vector Word 16
  qlimit : BitVec 32
  felimit : BitVec 32
  mirror : Bool
  capbase : BitVec 9
  watcha : Word
  watchm : Word
  svrb : Word
  svHead : BitVec 16
  svTail : BitVec 16
  svent : Word
  svAct : Bool
  svHold : Bool
  oppReq : BitVec 3
  groot : Word
  vlroot : Word
  trb : Word
  trhd : Word
  trSeq : Word
  deriving DecidableEq, Repr

/-- A line of an L2 slice (R322): the vault bytes that it caches, by the number of their 128-byte line among the physical keys, its set
and way, and its byte-dirty mask. The bytes themselves stand in memory: every access to a cached line passes through its one slice. -/
structure L2Line where
  line : Nat
  set : Nat
  way : Nat
  dirty : BitVec 128
  deriving DecidableEq, Repr

/-- Accesses of an engine or of the network interface to the scratchpad's banks (R140): from cycle `start` on `width` bytes a cycle of
the runs of physical addresses, in their order. -/
structure EngUse where
  start : Nat
  width : Nat
  runs : List (Nat × Nat)
  deriving DecidableEq, Repr

/-- A request that waits at a home port (R396, R397): its class, its injection stamp, its requester, and the step that performs it
some cycles after the port has begun it. -/
structure PortReq where
  prim : Bool
  stamp : Word
  src : CoreId
  term : Nat
  what : Instr
  arg : EvArg
  deriving DecidableEq, Repr

/-- Packets of the scavenger class that wait for a core's injection slot (R396): how many there are, their way, and the place and the step
that follows it. -/
structure Packet where
  count : Nat
  way : Nat
  prio : Nat
  what : Instr
  arg : EvArg
  deriving DecidableEq, Repr

/-- A home port (R397): the requests that wait, and the first cycle in which it can begin one. -/
structure HomePort where
  waiting : List PortReq
  free : Nat
  deriving DecidableEq, Repr

/-- The ports of the scratchpad's banks that are taken in one cycle (R140): for each port, a mask over the 512 banks. -/
structure PortUse where
  cycle : Nat
  p0 : BitVec 512
  p1 : BitVec 512
  p2 : BitVec 512
  deriving DecidableEq, Repr

/-- A logical core (R14): `code` is the primary's code section, `saved` are the captured contexts copied to save slots (R381), `dispAt` the cycle after that of its
last dispatch (R299), `qnet` are the scavenger cache's fills and write-backs on
the network, `move` is its migration, `moveReq` the reason of one that is requested, `held` are the accesses held at its network interface (R263,
R511), `cacheErr` the lines whose fill or write-back failed, with the threads to be told (R160), `acqAt` the cycle of the latest acquire
that dropped clean lines (R348), `engUse` the bank ports that engines and the network interface take (R140), `slotUntil` the first cycle in which the injection
slot is not taken, `slotQ` the packets of the scavenger class that wait for it (R396), `port` the home port (R397), `vport` that of the vault of an identity which has moved (R320), `walks` the
walks that end without a leaf (R330), `spared` the rows of its vault that spares have replaced (R516), `l2` the lines of the core's L2 slice and `l2Out` its ways that are withdrawn
from caching (R314, R322). Its threads, code section, control registers, queues, tables and Flowstone area. -/
structure Core where
  prim : Prim
  scav : Vector Scav 8
  code : List IWord
  ctl : CoreCtl
  nextId : Nat
  qcp : List Pend
  qga : List Pend
  qco : List Pend
  qkv : List Pend
  inj : List Pend
  qmx : List MEntry
  park : List Park
  cache : List CLine
  qnet : List Pend
  cacheErr : List (Nat × BitVec 8)
  acqAt : Nat
  tb : List TbEnt
  waitWake : List (BitVec 40 × Nat)
  ttab : Vector Chan 64
  ring : List (Nat × Msg)
  ringOut : List Rec64
  dispAt : Nat
  dirty : BitVec 32768
  flow : Flow
  ckpt : Option Ckpt
  move : Option MoveSt
  moveReq : Option Nat
  held : List Item
  cap : Option Captured
  saved : List Captured
  capReq : Option (BitVec 8 × Nat)
  offer : Option Nat
  durUntil : List (Thr × Nat)
  oldBytes : List OldBytes
  errAt : Option Word
  spared : List Nat
  corrected : Vector (BitVec 32) 9
  portUse : List PortUse
  engUse : List EngUse
  slotUntil : Nat
  slotQ : List Packet
  port : HomePort
  vport : HomePort
  walks : List Walk
  l2 : List L2Line
  l2Out : BitVec 16
  deriving DecidableEq, Repr

/-! ## Tiles and dies -/

/-- The supply of a tile (R472): on, on with its edge closed, being gated, gated, without power. -/
inductive Supply where
  | on
  | closing
  | gating
  | gated
  | lost
  deriving DecidableEq, Repr

/-- A burst of the scavenger caches' fills (R324): its 256-byte block, the line with which it starts, the core and the cache request that
sent it, the cycle in which it was sent, the cycle in which its first flit arrives, its eight lines from the block's first on (none for one
that could not be read), and the cache requests that take lines from it. -/
structure Burst where
  block : Nat
  first : Nat
  src : CoreId
  id : Nat
  began : Nat
  arrives : Option Nat
  lines : List (Option (List Byte))
  takers : List (CoreId × Nat)
  deriving DecidableEq, Repr

/-- A tile (R15, R502 to R509): deque, operating point, thermal cap, power grant, clock stop, tokens, scavenger demand in
pJ, supply, the requests parked at its edge (R473), the bursts of its mesh port (R324). Its clock runs at `freq` tenths of a GHz: cycle
`count` of it begins in the mesh cycle `at_`; its barrel counter was zero in cycle `barrel0` (R34, R504). -/
structure TileSt where
  deque : List (Nat × Msg)
  cur : Nat
  thermal : Nat
  grant : Nat
  stopped : Bool
  at_ : Nat
  count : Nat
  freq : Nat
  barrel0 : Nat
  tokens : Nat
  scavE : Nat
  supply : Supply
  edge : List Item
  bursts : List Burst
  deriving DecidableEq, Repr

/-- An entry of the logical-to-physical table (R510). -/
structure LptEnt where
  ins : Bool
  rsv : Bool
  ret : Bool
  mov : Bool
  hlid : BitVec 10
  lid : BitVec 10
  temp : BitVec 8
  hot : Nat
  deriving DecidableEq, Repr

/-- An entry of a router's fault table (R332): router, key, mask of the child ports (north, east, south, west, local, and at a
bridge router the Terminus die), the core behind the local port. -/
structure FaultEnt where
  at_ : RouterPos
  key : BitVec 40
  mask : BitVec 6
  src : BitVec 10
  deriving DecidableEq, Repr

/-- A die: its table, the identity that each position held at reset, `0x3FF` for none, which fixes the neighbours of ports (R441), and the
fault tables of its routers. -/
structure Die where
  lpt : Vector LptEnt 196
  ports : Vector (BitVec 10) 196
  faults : List FaultEnt
  deriving DecidableEq, Repr

/-! ## The Terminus die -/

/-- A contribution to a collective use (R227). -/
structure Contrib where
  core : CoreId
  id : Nat
  desc : Word
  data : List Byte
  at_ : Nat
  deriving DecidableEq, Repr

/-- One open use of a group (R402 to R407): its number, the group's members when it opened, those whose `XCOLL` has read its source with the cycle, the
contributions that have arrived at the root in their order, whether one differed, whether the result is on its way, and the
members at which it has released. `rootAt` is the cycle in which a broadcast's root read its source. -/
structure Use where
  num : Nat
  mask : BitVec 1024
  joined : List (CoreId × Nat)
  contribs : List Contrib
  differed : Bool
  sent : Bool
  rootAt : Nat
  result : List Byte
  released : List CoreId
  deriving DecidableEq, Repr

/-- A collective group (R402, R407): `issued` counts each member's `XCOLL`s, `passed` the uses that have released at it, and
`aborted` lists the uses that an `ABORT` ended. -/
structure Group where
  v : Bool
  mask : BitVec 1024
  uses : BitVec 16
  opens : List Use
  issued : List (Nat × Nat)
  passed : List (Nat × Nat)
  aborted : List Nat
  deriving DecidableEq, Repr

/-- An arena descriptor (R415), by doubleword; `ctfree` is the Junction's map of free child-table slots, `nhead` the first free
node of the pool, 0 for none. -/
structure Arena where
  dws : Vector Word 13
  ctfree : List Nat
  nhead : Nat
  deriving DecidableEq, Repr

/-- A reclaim entry (R428): arena, block, tier, stamp. -/
structure Reclaim where
  arena : Nat
  pbn : Nat
  sump : Bool
  stamp : Word
  deriving DecidableEq, Repr

/-- How far a pager request has come at the Junction (R252, R424, R430): waiting to be served, in its control time, copying,
past its copies with its completion point to come, or being undone, to be planned anew or to end ERROR with the cause, address and block of its record (R431). -/
inductive JPhase where
  | waiting
  | control
  | copying
  | done
  | undoing (again : Bool) (cause addr pbn : Nat)
  deriving DecidableEq, Repr

/-- A pager request at the Junction (R424, R430): requester, queue entry, phase; its arena, the blocks whose copy it has
begun as moves and as copy-on-write sources, its copies to make (source, destination, bytes), the blocks and the gallery places
taken for it, the next 256 bytes to copy, the cycle in which its wait for reclaim ends, the leaves still to be evicted for it when the
reclaim queue has room (R428), and the cycle in which its control time ends. `inService` are the arenas in service
when it arrived (R415), less those that an earlier request has since taken out of service (R432). -/
structure JReq where
  core : CoreId
  id : Nat
  phase : JPhase
  inService : BitVec 16
  arena : Nat
  moving : List Nat
  cow : List Nat
  copies : List (Nat × Nat × Nat)
  taken : List Nat
  places : Nat
  chunk : Nat
  evictUntil : Option Nat
  toEvict : Nat
  ready : Nat
  deriving DecidableEq, Repr

/-- The Junction (R252, R428 to R430): its requests in order of arrival, the reclaim queue, each core's latest report of a change of its
oldest gather, with whether one is incomplete, when its control unit is free, how many copiers work, and the cycles that walks have cost the
transaction in progress (R330). The periodic reports of cores without a gather are the time base at the cycles of R429, and need no state. -/
structure Junction where
  reqs : List JReq
  reclaim : List Reclaim
  reports : List (Nat × Bool × Word)
  ctlFree : Nat
  copiers : Nat
  walked : Nat
  deriving DecidableEq, Repr

/-- A record of the work hierarchy (R488, R489). `doneAt` is the cycle in which it became complete (R479), `order` counts the launches allocated before it (R292), `ret` is the returned chunk (R292), `desc` the descriptor, `code` the code section of
its image, `running` the cores that joined, `acks` the cores whose acknowledgement a hard cancel awaits and the cancel (R494). -/
structure WRec where
  done : Bool
  doneAt : Nat
  hold : Bool
  err : Bool
  can : BitVec 2
  nop : Bool
  parent : Nat
  pri : BitVec 2
  capNow : Bool
  count : Nat
  age : Word
  order : Nat
  next : Nat
  ret : Grant
  desc : List Word
  code : List IWord
  save : Word
  cores : BitVec 1024
  running : List CoreId
  acks : List (CoreId × CancelRef)
  deriving DecidableEq, Repr

/-- A semaphore of the signal box (R486). -/
structure Sem where
  owner : BitVec 2
  stamp : Word
  deriving DecidableEq, Repr

/-- The message window of a host port (R483, R485). `order` are the slots of messages that have not been accepted, in the order of
posting, each with whether it has been refused and whether it is held behind an earlier one (R297, R484). -/
structure Window where
  slots : Vector (Option Msg) 16
  order : List (Nat × Bool × Bool)
  ovr : BitVec 16
  bad : BitVec 16
  dl : BitVec 16
  up : Bool
  answers : List Word
  mail : List SpdmAnswer
  reads : List (List Byte)
  deriving DecidableEq, Repr

/-- How far the package has come from power-on (R519). -/
inductive Boot where
  | off
  | recovery
  | running
  deriving DecidableEq, Repr

/-- The management and boot controller and the power controller (R505 to R520): `fused` and `fusedKey` are the security version and the digest
of the signing key that the Terminus die's fuses hold, `chain` the certificate chain of the identity key in the flash; `budget`, `rampTo` and `rampStep` are the budget in
force in mW, what it ramps to, and the step of an epoch. -/
structure Service where
  boot : Boot
  flash : Vector (Option Firmware) 2
  fused : Nat
  fusedKey : BitVec 512
  chain : List Byte
  current : Option Firmware
  windowsOpen : Bool
  pwcap : Word
  safeb : BitVec 12
  budget : Nat
  rampTo : Nat
  rampStep : Nat
  leakage : Vector Word 80
  log : List Rec64
  refused : List (BitVec 8)
  corrected : Vector (BitVec 32) 9
  deriving DecidableEq, Repr

/-- The Terminus die's tables (R321, R327, R402, R415, R486, R488), host accesses that wait for a wake, the cycle after that of the
latest semaphore access, the home port of its memory and registers (R397), its walks that end without a leaf (R330), and the lanes of the peer links (R516). -/
structure Terminus where
  groups : Vector (BitVec 1024) 16
  regions : Vector Word 16
  sroot : Word
  hroot : Word
  tb : List TbEnt
  coll : Vector Group 256
  arenas : Vector Arena 16
  junction : Junction
  launches : List (Nat × WRec)
  graphs : List (Nat × WRec)
  phases : List (Nat × WRec)
  jobs : List (Nat × WRec)
  sems : Vector Sem 32
  windows : Vector Window 2
  waitWake : List (BitVec 40 × CoreId × Nat)
  hostWait : List (BitVec 40 × Item)
  semLast : Nat
  port : HomePort
  walks : List Walk
  peerLanes : Vector Nat 8
  service : Service
  deriving DecidableEq, Repr

/-! ## The bundle being performed -/

/-- A fault raised in the bundle being performed (R103). -/
structure Raised where
  slot : Nat
  waddr : Word
  code : BitVec 8
  sub : BitVec 8
  info : Word
  elem : Nat
  deriving DecidableEq, Repr

/-- The bundle or turn being performed (the model's own): thread, bundle address, the address after it, its operations,
the operation in progress, the taken branch with its drain flag and its address, the slots that hold an operation, the slots that faulted, the fault that is reported,
whether an operation waits and issues again, and whether an `ERET` or a `TEND` ended it. `turn` is the cycle of issue on the tile's clock and `stamp` the time base in
it; `putBack` are the values that faulting operations popped, with their directions (R168), `spacing` the bundles for which the bundle's strided or
indexed operations keep others away (R141); of a scavenger's
operation `got` holds the registers read, `mem` says that its memory access performs it, `dests` are its destination accesses, and
`lands` says that its result comes later. `bad` lists the slots whose operations read a register with an uncorrectable error, with its
selector (R514), and `sends` is a window read that sets out: its way, its thread operand and its selector (R271). -/
structure Issue where
  live : Bool
  core : CoreId
  thr : Thr
  baddr : Word
  next : Word
  ops : List IssOp
  slot : Nat
  waddr : Word
  taken : Option (Word × Bool)
  branchAt : Word
  pres : BitVec 10
  faulted : BitVec 10
  raised : Option Raised
  again : Bool
  waited : BitVec 10
  bound : Nat
  bcode : BitVec 8
  marks : BitVec 4
  expired : Bool
  eret : Bool
  ended : Bool
  turn : Nat
  stamp : Word
  putBack : List (Nat × Vec)
  spacing : Nat
  got : List (BitVec 6 × Word)
  mem : Bool
  dests : List Dest
  lands : Bool
  bad : List (Nat × Word)
  sends : Option (Nat × Word × Word)
  deriving DecidableEq, Repr

/-! ## The state -/

/-- The package. `cores` is indexed by logical identifier (R14); indices whose low eight bits exceed 191 hold no core.
`mem` holds every byte of scratchpad, vault, sump, host and Flowstone memory that is not zero, by physical key (Machine/Ops.lean), in
rising order; `empty` the scratchpad doublewords whose full-empty bit is empty, rising; `spoilt` the keys of the cells that hold
an uncorrectable error (R514), each a scratchpad doubleword or 32 bytes of another store. `cycle` counts the mesh clock. -/
structure State where
  cores : Vector Core 1024
  tiles : Vector TileSt 196
  dies : Vector Die 4
  term : Terminus
  mem : List Host.Cell
  empty : List Nat
  spoilt : List Nat
  cycle : Nat
  tscBase : Nat
  agenda : List Item
  evt : EvArg
  iss : Issue
  free : Nat
  deriving DecidableEq, Repr

/-! ## Outcomes -/

/-- Why the machine stops. The spec names no such case: every fault that it describes is a trap that a thread takes, an
operation that completes ERROR or a record that is sent, and the machine goes on. So there is no constructor, and nothing raises
one (safe). -/
inductive Fault where
  deriving DecidableEq, Repr

/-- Why the model gives a step no meaning. -/
inductive Refusal where
  /-- The step has no meaning in this model yet; answered by the dispatch. Safe. -/
  | notModelled (mnemonic : String)
  deriving DecidableEq, Repr

/-! ## Reset -/

def Tag.reset : Tag := { ready := false, status := 0, count := 0, stamp := 0, doneAt := 0 }

def Regs.reset : Regs :=
  { s := Vector.replicate 64 0, p := 0, v := Vector.replicate 64 0, k := Vector.replicate 16 0,
    a := Vector.replicate 32 0, b := Vector.replicate 4 0, ix := 0, iy := 0, iz := 0, latch := Vector.replicate 10 0 }

def Pending.clear : Pending :=
  { bt1 := none, gap := false, drn := false, src1 := 0, bt2 := none, drn2 := false, src2 := 0 }

def Prim.reset : Prim :=
  { regs := Regs.reset, flight := [], pc := 0, mode := .idle, br := Pending.clear, entryFrom := none, hold := none,
    replay := 0, omitAt := none, spacing := 0, owesDrain := false, endOwed := false, lastSlots := 0, lastIssue := 0, wawseen := false, mxerr := false, mfmt := 0,
    fpstat := 0, fpxen := 0, tags := Vector.replicate 64 Tag.reset, commits := 0, given := 0,
    portq := Vector.replicate 4 [], credits := Vector.replicate 4 8, marks := [], fault := none, task := none, regErr := [] }

def Scav.reset : Scav :=
  { wp := 0, pc := 0, code := [], st := .waiting, pendWp := none, entryFrom := none, omitAt := none,
    tags := Vector.replicate 8 Tag.reset, fpstat := 0, fpxen := 0, res := Vector.replicate 5 0,
    portq := Vector.replicate 4 [], credits := Vector.replicate 4 4, chan := none, wait := none, slot := 15, freeFrom := 0, marks := [], fault := none, win := none, ask := none }

def Chan.reset : Chan :=
  { entry := 0, code := [], v := false, blk := false, pri := 0, gen := 0, busy := 0, nws := 0, wsz := 0, wsb := 0 }

/-- The block table at reset: the spec gives "per image"; the model maps each block to itself (log 2). -/
def sbtReset : Vector Word 64 := Vector.ofFn fun i => BitVec.ofNat 64 (2 ^ 63 + i.val)

def CoreCtl.reset : CoreCtl :=
  { sbt := sbtReset, prb := Vector.replicate 16 0, prp := Vector.replicate 16 0, qlimit := 4096, felimit := 65536,
    mirror := false, capbase := 0x1EC, watcha := 0, watchm := 0, svrb := 0, svHead := 0, svTail := 0, svent := 0,
    svAct := false, svHold := false, oppReq := 7, groot := 0, vlroot := 0, trb := 0, trhd := 0, trSeq := 0 }

/-- A home port on which nothing waits. -/
def HomePort.reset : HomePort := { waiting := [], free := 0 }

def Core.reset : Core :=
  { prim := Prim.reset, scav := Vector.replicate 8 Scav.reset, code := [], ctl := CoreCtl.reset, nextId := 0,
    qcp := [], qga := [], qco := [], qkv := [], inj := [], qmx := [], park := [], cache := [], qnet := [], cacheErr := [], acqAt := 0, tb := [],
    waitWake := [], ttab := Vector.replicate 64 Chan.reset, ring := [], ringOut := [], dispAt := 0,
    dirty := BitVec.allOnes 32768, flow := { snaps := Vector.replicate 2 none, fates := Vector.replicate 2 .stands },
    ckpt := none, move := none, moveReq := none, held := [], cap := none, saved := [], capReq := none, offer := none,
    durUntil := [], oldBytes := [], errAt := none, spared := [], corrected := Vector.replicate 9 0, portUse := [],
    engUse := [], slotUntil := 0, slotQ := [], port := HomePort.reset, vport := HomePort.reset, walks := [], l2 := [], l2Out := 0 }

def TileSt.reset : TileSt :=
  { deque := [], cur := 7, thermal := 7, grant := 7, stopped := false, at_ := 0, count := 0, freq := 17, barrel0 := 0,
    tokens := 1000000, scavE := 0, supply := .on, edge := [], bursts := [] }

/-- The physical positions of the reserve tile: tile (3, 6) of a die, log 2. -/
def isReserve (pos : Nat) : Bool := (pos % 14) / 2 == 3 && (pos / 14) / 2 == 6

/-- The in-service positions below a position, in row-major order (R14): the four positions of the reserve tile are
174, 175, 188 and 189. -/
def serviceRank (pos : Nat) : Nat :=
  pos - (if 174 < pos then 1 else 0) - (if 175 < pos then 1 else 0) - (if 188 < pos then 1 else 0) -
    (if 189 < pos then 1 else 0)

/-- The logical-to-physical table at reset (R14, R510). -/
def lptReset (die : Nat) : Vector LptEnt 196 :=
  Vector.ofFn fun i =>
    if isReserve i.val then
      { ins := false, rsv := true, ret := false, mov := false, hlid := 0x3FF, lid := 0x3FF, temp := 0, hot := 0 }
    else
      { ins := true, rsv := false, ret := false, mov := false,
        hlid := BitVec.ofNat 10 (256 * die + serviceRank i.val),
        lid := BitVec.ofNat 10 (256 * die + serviceRank i.val), temp := 0, hot := 0 }

def Group.reset : Group := { v := false, mask := 0, uses := 0, opens := [], issued := [], passed := [], aborted := [] }

def Window.reset : Window :=
  { slots := Vector.replicate 16 none, order := [], ovr := 0, bad := 0, dl := 0, up := true, answers := [], mail := [], reads := [] }

def Service.reset : Service :=
  { boot := .off, flash := Vector.replicate 2 none, fused := 0, fusedKey := 0, chain := [], current := none, windowsOpen := false,
    pwcap := 1800, safeb := 1800, budget := 1800000, rampTo := 1800000, rampStep := 0, leakage := Vector.replicate 80 0, log := [],
    refused := [], corrected := Vector.replicate 9 0 }

def Terminus.reset : Terminus :=
  { groups := Vector.replicate 16 0, regions := Vector.replicate 16 0, sroot := 0, hroot := 0, tb := [],
    coll := Vector.replicate 256 Group.reset,
    arenas := Vector.replicate 16 { dws := Vector.replicate 13 0, ctfree := [], nhead := 0 },
    junction := { reqs := [], reclaim := [], reports := [], ctlFree := 0, copiers := 0, walked := 0 },
    launches := [], graphs := [], phases := [], jobs := [],
    sems := Vector.replicate 32 { owner := 0, stamp := 0 }, windows := Vector.replicate 2 Window.reset,
    waitWake := [], hostWait := [], semLast := 0, port := HomePort.reset, walks := [], peerLanes := Vector.replicate 8 8, service := Service.reset }

def Issue.idle : Issue :=
  { live := false, core := 0, thr := .prim, baddr := 0, next := 0, ops := [], slot := 15, waddr := 0, taken := none,
    branchAt := 0, pres := 0, faulted := 0, raised := none, again := false, waited := 0, bound := 0, bcode := 0, marks := 0,
    expired := false, eret := false, ended := false, turn := 0, stamp := 0, putBack := [], spacing := 0, got := [], mem := false, dests := [], lands := false,
    bad := [], sends := none }

/-- The package right after reset (R14, R39, R40, R42, R293, R294, R508, R519): the power-on boot is due. -/
def State.reset : State :=
  { cores := Vector.replicate 1024 Core.reset, tiles := Vector.replicate 196 TileSt.reset,
    dies := Vector.ofFn fun d => { lpt := lptReset d.val, ports := (lptReset d.val).map LptEnt.lid, faults := [] }, term := Terminus.reset,
    mem := [], empty := [], spoilt := [], cycle := 0, tscBase := 0,
    agenda := [{ due := 0, prio := 0, what := .powerOnBoot, arg := EvArg.ofCore 0 }],
    evt := EvArg.ofCore 0, iss := Issue.idle, free := 0 }

end Sys2Proof.Machine
end

