-- ==== Sys2Proof/WellFormed.lean ====
section
/-! DEFINITION. When a term of `Instr` is well-formed: its fields are ones that the words of R69 to R82 can carry. What
an encodable operation may legally hold (unused fields, register numbers, types, threads) is a check of the machine that
raises an encoding fault (R73 to R91): Machine/Legal.lean. -/

namespace Sys2Proof

/-- The classes of operations (R17). -/
inductive OpClass where
  | b
  | s
  | l
  | v
  | m
  | x
  deriving DecidableEq, Repr

/-- The layouts of an operation's words (R70, R72): `ordinary` has a compact form, `wideOnly` has none because
its minor exceeds the three bits of R69, `wideImm` has none and carries `imm24`, `addi` is the compact immediate form. -/
inductive Layout where
  | ordinary
  | wideOnly
  | wideImm
  | addi
  deriving DecidableEq, Repr

/-- The fields of an operation; an event has none. -/
def Instr.op? : Instr → Option Op
  | .br op => some op
  | .brp op => some op
  | .loop op => some op
  | .bri op => some op
  | .call op => some op
  | .calli op => some op
  | .ret op => some op
  | .brc op => some op
  | .tend op => some op
  | .trap op => some op
  | .sys op => some op
  | .nopb op => some op
  | .eret op => some op
  | .add op => some op
  | .sub op => some op
  | .and op => some op
  | .or op => some op
  | .xor op => some op
  | .andn op => some op
  | .min op => some op
  | .max op => some op
  | .minn op => some op
  | .maxn op => some op
  | .shl op => some op
  | .shr op => some op
  | .sar op => some op
  | .rotl op => some op
  | .clz op => some op
  | .ctz op => some op
  | .popc op => some op
  | .ext op => some op
  | .ins op => some op
  | .mul op => some op
  | .mulh op => some op
  | .mulhn op => some op
  | .div op => some op
  | .divn op => some op
  | .rem op => some op
  | .remn op => some op
  | .addi op => some op
  | .movi op => some op
  | .movhi op => some op
  | .cmp op => some op
  | .cmpi op => some op
  | .plog op => some op
  | .pmov op => some op
  | .sel op => some op
  | .fadd op => some op
  | .fsub op => some op
  | .fmul op => some op
  | .fma op => some op
  | .fmin op => some op
  | .fmax op => some op
  | .fdiv op => some op
  | .fsqrt op => some op
  | .fcmp op => some op
  | .fcvt op => some op
  | .fclass op => some op
  | .mfc op => some op
  | .mtc op => some op
  | .msetf op => some op
  | .rdts op => some op
  | .rdres op => some op
  | .ld op => some op
  | .st op => some op
  | .vld op => some op
  | .vlds op => some op
  | .vldb op => some op
  | .vst op => some op
  | .vsts op => some op
  | .vldx op => some op
  | .vstx op => some op
  | .ldacq op => some op
  | .strel op => some op
  | .ldf op => some op
  | .stf op => some op
  | .ldfe op => some op
  | .atom op => some op
  | .cas op => some op
  | .ldc op => some op
  | .stc op => some op
  | .flushc op => some op
  | .vadd op => some op
  | .vsub op => some op
  | .vmin op => some op
  | .vmax op => some op
  | .vabs op => some op
  | .vneg op => some op
  | .vmul op => some op
  | .vfma op => some op
  | .vfms op => some op
  | .vand op => some op
  | .vor op => some op
  | .vxor op => some op
  | .vshl op => some op
  | .vshr op => some op
  | .vsar op => some op
  | .vcmp op => some op
  | .vsel op => some op
  | .klog op => some op
  | .vpopk op => some op
  | .vcvt op => some op
  | .vpack op => some op
  | .vunpk op => some op
  | .vred op => some op
  | .vscan op => some op
  | .vperm op => some op
  | .vslide op => some op
  | .vcompr op => some op
  | .vext op => some op
  | .vins op => some op
  | .vmov op => some op
  | .vbcast op => some op
  | .vexp2 op => some op
  | .vlog2 op => some op
  | .vrcp op => some op
  | .vrsq op => some op
  | .vtanh op => some op
  | .vord op => some op
  | .vhist op => some op
  | .mma op => some op
  | .mmas op => some op
  | .mlatch op => some op
  | .mzero op => some op
  | .mrd op => some op
  | .mwr op => some op
  | .mcommit op => some op
  | .mwait op => some op
  | .mcmpr op => some op
  | .xcp op => some op
  | .xcp2 op => some op
  | .xga op => some op
  | .xsc op => some op
  | .xkvg op => some op
  | .xcoll op => some op
  | .fence op => some op
  | .xfence op => some op
  | .xdfence op => some op
  | .drain op => some op
  | .pfence op => some op
  | .ratom op => some op
  | .decr op => some op
  | .rldf op => some op
  | .rstf op => some op
  | .send op => some op
  | .push op => some op
  | .pop op => some op
  | .pusht op => some op
  | .popt op => some op
  | .twaita op => some op
  | .twaity op => some op
  | .tfind op => some op
  | .tclr op => some op
  | .cntw op => some op
  | .launch op => some op
  | .spawn op => some op
  | .cancel op => some op
  | .kvmatch op => some op
  | .kvins op => some op
  | .kvapp op => some op
  | .kvrel op => some op
  | .kvpin op => some op
  | .kvdem op => some op
  | .kvprom op => some op
  | .waitw op => some op
  | .yield op => some op
  | .setwp op => some op
  | .pckpt op => some op
  | .svwin op => some op
  | .svres op => some op
  | .xlinv op => some op
  | _ => none

/-- The class of an operation (R92); an event has none. -/
def Instr.cls? : Instr → Option OpClass
  | .br _ => some .b
  | .brp _ => some .b
  | .loop _ => some .b
  | .bri _ => some .b
  | .call _ => some .b
  | .calli _ => some .b
  | .ret _ => some .b
  | .brc _ => some .b
  | .tend _ => some .b
  | .trap _ => some .b
  | .sys _ => some .b
  | .nopb _ => some .b
  | .eret _ => some .b
  | .add _ => some .s
  | .sub _ => some .s
  | .and _ => some .s
  | .or _ => some .s
  | .xor _ => some .s
  | .andn _ => some .s
  | .min _ => some .s
  | .max _ => some .s
  | .minn _ => some .s
  | .maxn _ => some .s
  | .shl _ => some .s
  | .shr _ => some .s
  | .sar _ => some .s
  | .rotl _ => some .s
  | .clz _ => some .s
  | .ctz _ => some .s
  | .popc _ => some .s
  | .ext _ => some .s
  | .ins _ => some .s
  | .mul _ => some .s
  | .mulh _ => some .s
  | .mulhn _ => some .s
  | .div _ => some .s
  | .divn _ => some .s
  | .rem _ => some .s
  | .remn _ => some .s
  | .addi _ => some .s
  | .movi _ => some .s
  | .movhi _ => some .s
  | .cmp _ => some .s
  | .cmpi _ => some .s
  | .plog _ => some .s
  | .pmov _ => some .s
  | .sel _ => some .s
  | .fadd _ => some .s
  | .fsub _ => some .s
  | .fmul _ => some .s
  | .fma _ => some .s
  | .fmin _ => some .s
  | .fmax _ => some .s
  | .fdiv _ => some .s
  | .fsqrt _ => some .s
  | .fcmp _ => some .s
  | .fcvt _ => some .s
  | .fclass _ => some .s
  | .mfc _ => some .s
  | .mtc _ => some .s
  | .msetf _ => some .s
  | .rdts _ => some .s
  | .rdres _ => some .s
  | .ld _ => some .l
  | .st _ => some .l
  | .vld _ => some .l
  | .vlds _ => some .l
  | .vldb _ => some .l
  | .vst _ => some .l
  | .vsts _ => some .l
  | .vldx _ => some .l
  | .vstx _ => some .l
  | .ldacq _ => some .l
  | .strel _ => some .l
  | .ldf _ => some .l
  | .stf _ => some .l
  | .ldfe _ => some .l
  | .atom _ => some .l
  | .cas _ => some .l
  | .ldc _ => some .l
  | .stc _ => some .l
  | .flushc _ => some .l
  | .vadd _ => some .v
  | .vsub _ => some .v
  | .vmin _ => some .v
  | .vmax _ => some .v
  | .vabs _ => some .v
  | .vneg _ => some .v
  | .vmul _ => some .v
  | .vfma _ => some .v
  | .vfms _ => some .v
  | .vand _ => some .v
  | .vor _ => some .v
  | .vxor _ => some .v
  | .vshl _ => some .v
  | .vshr _ => some .v
  | .vsar _ => some .v
  | .vcmp _ => some .v
  | .vsel _ => some .v
  | .klog _ => some .v
  | .vpopk _ => some .v
  | .vcvt _ => some .v
  | .vpack _ => some .v
  | .vunpk _ => some .v
  | .vred _ => some .v
  | .vscan _ => some .v
  | .vperm _ => some .v
  | .vslide _ => some .v
  | .vcompr _ => some .v
  | .vext _ => some .v
  | .vins _ => some .v
  | .vmov _ => some .v
  | .vbcast _ => some .v
  | .vexp2 _ => some .v
  | .vlog2 _ => some .v
  | .vrcp _ => some .v
  | .vrsq _ => some .v
  | .vtanh _ => some .v
  | .vord _ => some .v
  | .vhist _ => some .v
  | .mma _ => some .m
  | .mmas _ => some .m
  | .mlatch _ => some .m
  | .mzero _ => some .m
  | .mrd _ => some .m
  | .mwr _ => some .m
  | .mcommit _ => some .m
  | .mwait _ => some .m
  | .mcmpr _ => some .m
  | .xcp _ => some .x
  | .xcp2 _ => some .x
  | .xga _ => some .x
  | .xsc _ => some .x
  | .xkvg _ => some .x
  | .xcoll _ => some .x
  | .fence _ => some .x
  | .xfence _ => some .x
  | .xdfence _ => some .x
  | .drain _ => some .x
  | .pfence _ => some .x
  | .ratom _ => some .x
  | .decr _ => some .x
  | .rldf _ => some .x
  | .rstf _ => some .x
  | .send _ => some .x
  | .push _ => some .x
  | .pop _ => some .x
  | .pusht _ => some .x
  | .popt _ => some .x
  | .twaita _ => some .x
  | .twaity _ => some .x
  | .tfind _ => some .x
  | .tclr _ => some .x
  | .cntw _ => some .x
  | .launch _ => some .x
  | .spawn _ => some .x
  | .cancel _ => some .x
  | .kvmatch _ => some .x
  | .kvins _ => some .x
  | .kvapp _ => some .x
  | .kvrel _ => some .x
  | .kvpin _ => some .x
  | .kvdem _ => some .x
  | .kvprom _ => some .x
  | .waitw _ => some .s
  | .yield _ => some .s
  | .setwp _ => some .s
  | .pckpt _ => some .x
  | .svwin _ => some .x
  | .svres _ => some .x
  | .xlinv _ => some .x
  | _ => none

/-- The layout of an operation's words (R70, R72). -/
def Instr.layout : Instr → Layout
  | .br _ => .wideImm
  | .brp _ => .wideImm
  | .call _ => .wideImm
  | .loop _ => .wideImm
  | .movhi _ => .wideImm
  | .movi _ => .wideImm
  | .addi _ => .addi
  | .minn _ => .wideOnly
  | .maxn _ => .wideOnly
  | .ins _ => .wideOnly
  | _ => .ordinary

/-- `esz` of a compact operation, by class (R78). -/
def OpClass.compactEsz : OpClass → BitVec 2
  | .s | .l | .x => 3
  | .v => 2
  | .b | .m => 0

/-- Whether a rounding and a saturation code are assigned (R54). -/
def modCodesOk (rnd : BitVec 3) (sat : BitVec 2) : Bool := decide (rnd.toNat ≤ 4) && decide (sat.toNat ≤ 2)

/-- A prefix holds assigned codes (R80). -/
def Op.wfPfx (o : Op) : Bool :=
  match o.pfx with
  | .mod r s _ => modCodesOk r s
  | _ => true

/-- A compact word carries these fields (R69, R78, R82). -/
def Op.wfCompact (k : OpClass) (o : Op) : Bool :=
  o.compact && decide (o.pred.toNat < 4) && !o.pneg && o.c == 0 && !o.lc && o.x12 == 0 && o.imm == 0 &&
  o.esz == k.compactEsz &&
  match o.pfx with
  | .latchx _ _ xc => k != .b && !xc
  | .none => !o.la && !o.lb && !o.nw
  | _ => k != .b && !o.la && !o.lb && !o.nw

/-- The word of `ADDI` carries these fields (R70). -/
def Op.wfAddi (o : Op) : Bool :=
  o.compact && o.pred == 0 && !o.pneg && o.b == 0 && o.c == 0 && !o.lc && o.x12 == 0 && o.esz == 3 &&
  decide (o.imm.toNat < 2048) &&
  match o.pfx with
  | .latchx _ _ xc => !xc
  | _ => !o.la && !o.lb && !o.nw

/-- A head and an ordinary tail carry these fields (R71, R72). A prefix before a B-class operation is an orphan (R83). -/
def Op.wfWide (k : OpClass) (o : Op) : Bool :=
  !o.compact && o.imm == 0 && (k != .b || o.pfx == .none)

/-- A head and a tail of the wide-immediate layout carry these fields (R72). -/
def Op.wfWideImm (k : OpClass) (o : Op) : Bool :=
  !o.compact && o.b == 0 && o.c == 0 && o.x12 == 0 && (k != .b || o.pfx == .none)

/-- An operation's fields fit its words. An event carries no words and is always well-formed. -/
def Instr.wf (i : Instr) : Bool :=
  match i.op?, i.cls? with
  | some o, some k =>
    o.wfPfx && match i.layout with
    | .ordinary => o.wfCompact k || o.wfWide k
    | .wideOnly => o.wfWide k
    | .wideImm => o.wfWideImm k
    | .addi => o.wfAddi
  | _, _ => true

/-- `Instr.wf` as a proposition. -/
abbrev WellFormed (i : Instr) : Prop := i.wf = true

end Sys2Proof
end

