-- ==== Sys2Proof/Machine/Ops.lean ====
section
/-! DEFINITION. The named operations over memory, registers, results in flight, tags, the agenda and the network's
geometry; taking a trap and the return from one. -/

namespace Sys2Proof.Machine

open Sys2Proof

/-- The outcome of a step. -/
abbrev Out := Host.Outcome State Fault Refusal

/-! ## Memory: a canonical list of bytes -/

/-- The byte at a key; an unlisted key reads zero (log 1). -/
def Memory.get : List Host.Cell → Nat → Byte
  | [], _ => 0
  | (k, b) :: m, a => if a < k then 0 else if a = k then b else Memory.get m a

/-- Write one byte, keeping the canonical form. -/
def Memory.set : List Host.Cell → Nat → Byte → List Host.Cell
  | [], a, b => if b = 0 then [] else [(a, b)]
  | (k, c) :: m, a, b =>
    if a < k then (if b = 0 then (k, c) :: m else (a, b) :: (k, c) :: m)
    else if a = k then (if b = 0 then m else (a, b) :: m)
    else (k, c) :: Memory.set m a b

/-- The canonical form: keys strictly rising, no byte zero. -/
def Memory.wf : List Host.Cell → Bool
  | [] => true
  | [(_, b)] => b != 0
  | (k, b) :: (k', b') :: m => b != 0 && decide (k < k') && Memory.wf ((k', b') :: m)

/-- Insert into a strictly rising list of numbers. -/
def insertNat : List Nat → Nat → List Nat
  | [], a => [a]
  | k :: l, a => if a < k then a :: k :: l else if a = k then k :: l else k :: insertNat l a

/-- Remove from a strictly rising list of numbers. -/
def eraseNat : List Nat → Nat → List Nat
  | [], _ => []
  | k :: l, a => if a = k then l else k :: eraseNat l a

/-! ## Keys: one number per physical byte of the package (R312, R318) -/

/-- A byte of a core's physical scratchpad. -/
def scratchKey (c : CoreId) (phys : Nat) : Nat := 2 ^ 52 + c.val * 2 ^ 42 + phys
/-- A byte of the vault of a core. -/
def vaultKey (c : CoreId) (off : Nat) : Nat := 2 * 2 ^ 52 + c.val * 2 ^ 42 + off
/-- A byte of the sump. -/
def sumpKey (off : Nat) : Nat := 4 * 2 ^ 52 + off
/-- A byte of host memory. -/
def hostKey (off : Nat) : Nat := 5 * 2 ^ 52 + off
/-- A byte of a peer module, by its domain `0x6` address. -/
def peerKey (off : Nat) : Nat := 6 * 2 ^ 52 + off

/-- The core that a number names, modulo the 1,024 indices. -/
def coreOfNat (n : Nat) : CoreId := ⟨n % 1024, Nat.mod_lt _ (by decide)⟩

/-! ## Vectors indexed modulo their length -/

/-- The element at an index modulo the length. -/
def vget {α : Type} {n : Nat} (v : Vector α (n + 1)) (i : Nat) : α := v[i % (n + 1)]'(Nat.mod_lt _ (Nat.succ_pos n))
/-- Replace the element at an index modulo the length. -/
def vset {α : Type} {n : Nat} (v : Vector α (n + 1)) (i : Nat) (x : α) : Vector α (n + 1) :=
  v.set (i % (n + 1)) x (Nat.mod_lt _ (Nat.succ_pos n))

/-! ## Accessors of State -/

def State.core (s : State) (c : CoreId) : Core := s.cores[c.val]
def State.setCore (s : State) (c : CoreId) (x : Core) : State := { s with cores := s.cores.set c.val x }
def State.modCore (s : State) (c : CoreId) (f : Core → Core) : State := s.setCore c (f (s.core c))
def State.prim (s : State) (c : CoreId) : Prim := (s.core c).prim
def State.modPrim (s : State) (c : CoreId) (f : Prim → Prim) : State :=
  s.modCore c fun x => { x with prim := f x.prim }
def State.scav (s : State) (c : CoreId) (k : Fin 8) : Scav := (s.core c).scav[k.val]
def State.modScav (s : State) (c : CoreId) (k : Fin 8) (f : Scav → Scav) : State :=
  s.modCore c fun x => { x with scav := x.scav.set k.val (f x.scav[k.val]) }
def State.modCtl (s : State) (c : CoreId) (f : CoreCtl → CoreCtl) : State :=
  s.modCore c fun x => { x with ctl := f x.ctl }
def State.modRegs (s : State) (c : CoreId) (f : Regs → Regs) : State :=
  s.modPrim c fun p => { p with regs := f p.regs }
def State.modTerm (s : State) (f : Terminus → Terminus) : State := { s with term := f s.term }
def State.modSvc (s : State) (f : Service → Service) : State :=
  s.modTerm fun t => { t with service := f t.service }

/-- A fresh number of the free-value counter (log 4). -/
def State.tickFree (s : State) : State := { s with free := s.free + 1 }

/-- The time base in the present cycle: 1 ns ticks, 1.7 cycles of the mesh clock each (R43, R521). -/
def State.tsc (s : State) : Word := BitVec.ofNat 64 (s.tscBase + s.cycle * 10 / 17)

/-- The time base in the cycle in which the operation in progress issued (R133, R239). -/
def State.issueTsc (s : State) : Word := s.iss.stamp

/-- The cycle of a tile's clock in a mesh cycle; while the clock stands it is the one before the next (R504). -/
def TileSt.clockAt (x : TileSt) (t : Nat) : Nat := if t < x.at_ then x.count - 1 else x.count + ((t - x.at_ + 1) * x.freq - 1) / 17

/-- The mesh cycle in which a cycle of a tile's clock that is not yet past begins (R504). -/
def TileSt.meshOf (x : TileSt) (n : Nat) : Nat := x.at_ + (n - x.count) * 17 / x.freq

/-- The mesh cycle in which a duration of `t` tenths of a nanosecond ends that begins now: ceil(t × f) cycles of the tile's clock (R521). -/
def TileSt.lasts (x : TileSt) (now t : Nat) : Nat := max now (x.meshOf (x.clockAt now + (t * x.freq + 99) / 100))

/-- The mesh cycle in which a core of a tile sees what began at `from_` and ends at `to_`: a latency of the network's formulas takes
ceil(latency × f / 1.7) cycles of its own (R504). -/
def TileSt.sees (x : TileSt) (from_ to_ : Nat) : Nat :=
  if from_ < x.at_ then to_ else max to_ (x.meshOf (x.clockAt from_ + ((to_ - from_) * x.freq + 16) / 17))

/-- The ticks of the time base at the start of a tile's present cycle (R521). -/
def TileSt.ticksAt (x : TileSt) (t : Nat) : Nat :=
  if t < x.at_ then t * 10 / 17 else (x.at_ * x.freq + 17 * (x.clockAt t - x.count)) * 10 / (17 * x.freq)

/-- A duration of nanoseconds in mesh cycles: ceil(t × 1.7) (R521). -/
def nsCycles (t : Nat) : Nat := (t * 17 + 9) / 10

/-! ## Geometry (R14, R394, R395) -/

/-- The die of a logical core. -/
def dieOf (c : CoreId) : Fin 4 := ⟨c.val / 256, by have := c.isLt; omega⟩

/-- Whether a number names a core: its index within the die is at most 191 (R14). -/
def isCore (n : Nat) : Bool := decide (n < 1024) && decide (n % 256 < 192)

/-- The position of a die that holds an identity now. -/
def State.posOf (s : State) (c : CoreId) : Nat :=
  let l := s.dies[(dieOf c).val].lpt
  match (List.finRange 196).find? fun i => l[i.val].lid == BitVec.ofNat 10 c.val with
  | some i => i.val
  | none => 0

/-- The position that holds an identity's vault and Flowstone area. -/
def State.homePosOf (s : State) (c : CoreId) : Nat :=
  let l := s.dies[(dieOf c).val].lpt
  match (List.finRange 196).find? fun i => l[i.val].hlid == BitVec.ofNat 10 c.val with
  | some i => i.val
  | none => 0

/-- Package coordinates of a position of a die (R394). -/
def pkgXY (die : Fin 4) (pos : Nat) : Nat × Nat := (pos % 14 + 14 * (die.val % 2), pos / 14 + 14 * (die.val / 2))

/-- Package coordinates of a die's Terminus bridge router (R394). -/
def bridgeXY (die : Fin 4) : Nat × Nat := (if die.val % 2 = 0 then 13 else 14, if die.val / 2 = 0 then 13 else 14)

/-- Package coordinates of a die's Roundhouse (R395). -/
def roundhouseXY (die : Fin 4) : Nat × Nat := (7 + 14 * (die.val % 2), 7 + 14 * (die.val / 2))

/-- The difference of two numbers. -/
def absDiff (a b : Nat) : Nat := (a - b) + (b - a)

/-- 2·H + 20·D of a route between two routers (R395, R397): links crossed, and bridges where the die changes. -/
def routeCost (a b : Nat × Nat) : Nat :=
  2 * (absDiff a.1 b.1 + absDiff a.2 b.2) +
    20 * ((if a.1 / 14 = b.1 / 14 then 0 else 1) + (if a.2 / 14 = b.2 / 14 then 0 else 1))

/-- The router of a core. -/
def State.xy (s : State) (c : CoreId) : Nat × Nat := pkgXY (dieOf c) (s.posOf c)

/-- One way from core to core: 9 + 2H + 20D cycles (R397). -/
def State.oneWay (s : State) (a b : CoreId) : Nat := 9 + routeCost (s.xy a) (s.xy b)

/-- One way from a core to the Terminus die: its bridge router, and one bridge more (R395). -/
def State.toTerminus (s : State) (a : CoreId) : Nat := 9 + routeCost (s.xy a) (bridgeXY (dieOf a)) + 20

/-- One way from a core to a die's Roundhouse. -/
def State.toRoundhouse (s : State) (a : CoreId) (d : Fin 4) : Nat := 9 + routeCost (s.xy a) (roundhouseXY d)

/-- The tile of a logical core, by its present position: 49 tiles a die (R14). -/
def State.tileOf (s : State) (c : CoreId) : Fin 196 :=
  let p := s.posOf c
  ⟨((dieOf c).val * 49 + (p / 14 / 2) * 7 + (p % 14) / 2) % 196, Nat.mod_lt _ (by decide)⟩

def State.tile (s : State) (t : Fin 196) : TileSt := s.tiles[t.val]
def State.modTile (s : State) (t : Fin 196) (f : TileSt → TileSt) : State :=
  { s with tiles := s.tiles.set t.val (f s.tiles[t.val]) }

/-- The designated supervisor core of a die (R15). -/
def supervisorOf (d : Fin 4) : CoreId := coreOfNat (256 * d.val + 1)

/-- Whether a core is its die's designated supervisor core (R15). -/
def isSupervisor (c : CoreId) : Bool := c.val % 256 == 1

/-- The station core (R15). -/
def stationCore : CoreId := 0

/-- The position that a core held at reset, by its die's table of that time. -/
def State.bornAt (s : State) (c : CoreId) : Option (Fin 196) :=
  (List.finRange 196).find? fun i => s.dies[(dieOf c).val].ports[i.val] == BitVec.ofNat 10 c.val

/-- The logical core to which a direction of a core leads, 0 north, 1 east, 2 south, 3 west: the one that held the adjacent position at
reset; none where the direction is open (R441). -/
def State.neighbour (s : State) (c : CoreId) (dir : Nat) : Option CoreId :=
  match s.bornAt c with
  | none => none
  | some i =>
    let xy := pkgXY (dieOf c) i.val
    let t : Option (Nat × Nat) :=
      match dir with
      | 0 => if xy.2 < 27 then some (xy.1, xy.2 + 1) else none
      | 1 => if xy.1 < 27 then some (xy.1 + 1, xy.2) else none
      | 2 => if 0 < xy.2 then some (xy.1, xy.2 - 1) else none
      | _ => if 0 < xy.1 then some (xy.1 - 1, xy.2) else none
    match t with
    | none => none
    | some (x, y) =>
      let id := (s.dies[(x / 14 + 2 * (y / 14)) % 4]'(Nat.mod_lt _ (by decide))).ports[(x % 14 + 14 * (y % 14)) % 196]'(Nat.mod_lt _ (by decide))
      if isCore id.toNat then some (coreOfNat id.toNat) else none

/-! ## The agenda -/

/-- Whether an item goes before another that stands in the agenda: by cycle, by place within it, and of several cores' bundles, or of several
cores' scavenger accesses, by rising core (R302; log 3). -/
def Item.before (i j : Item) : Bool :=
  decide (i.due < j.due) || (i.due == j.due && (decide (i.prio < j.prio) ||
    (i.prio == j.prio && (i.prio == 1 || decide (5 ≤ i.prio)) && decide (i.arg.core.val < j.arg.core.val))))

/-- Insert an item after every item that it does not go before. -/
def insertItem : List Item → Item → List Item
  | [], i => [i]
  | j :: l, i => if i.before j then i :: j :: l else j :: insertItem l i

/-- Whether a step belongs to a core itself: its own issue, its engines' starts and local writes. It is lost with the core's power
(R465), and it keeps the tile's clock (R504). -/
def isLocalStep (i : Instr) : Bool :=
  match i with
  | .bundleFetch | .resultLanding | .drainWaitEnd | .blockingPointRelease | .qstall | .fewait | .portstall | .barrelTurn
  | .scavengerAccessRetry | .scavengerLongResult | .normaliserForfeitEnd | .yieldEnd | .wpSwitch | .scavengerCacheFill
  | .dispatch | .deliveryComplete | .claimResponse | .bodyEntry | .queueEntryStart | .matrixArrayStart | .matrixArrayEnd
  | .matrixEntryComplete | .parkedAccessService | .parkBoundExpiry | .wakeAtRequester | .portValueArrival | .portCreditReturn
  | .checkpointFreeze | .checkpointEnd | .captureStart | .captureEnd | .contextResume | .supervisorHandlerEntry | .spillFillDone
  | .migration | .moveCopyEnd => true
  | _ => false

/-- Whether a step of a core keeps its tile's clock, and not the mesh's (R504). -/
def isClocked (i : Instr) : Bool :=
  isLocalStep i && i != .portValueArrival && i != .portCreditReturn && i != .wakeAtRequester && i != .claimResponse &&
    i != .scavengerCacheFill && i != .checkpointEnd

/-- The present cycle of a core's clock (R504). -/
def State.clock (s : State) (c : CoreId) : Nat := (s.tile (s.tileOf c)).clockAt s.cycle

/-- The time base in the present cycle of a core's clock (R521). -/
def State.tscOf (s : State) (c : CoreId) : Word := BitVec.ofNat 64 (s.tscBase + (s.tile (s.tileOf c)).ticksAt s.cycle)

/-- The mesh cycle of a cycle of a core's clock, not in the past. In the cycle that comes before a stop, what that cycle still does is now; in
the stop, nothing is before its end (R504). -/
def State.meshAt (s : State) (c : CoreId) (n : Nat) : Nat :=
  let x := s.tile (s.tileOf c)
  if n < x.count ∧ s.cycle + 1700 < x.at_ then s.cycle else max s.cycle (x.meshOf n)

/-- The mesh cycle some cycles from now, of the clock that the step keeps (R504). -/
def State.dueIn (s : State) (what : Instr) (c : CoreId) (delay : Nat) : Nat :=
  if isClocked what then s.meshAt c (s.clock c + delay) else s.cycle + delay

/-- The mesh cycle in which a duration of nanoseconds ends that a core's tile times: ceil(t × f) cycles of its clock (R521). -/
def State.dueNs (s : State) (c : CoreId) (t : Nat) : Nat := (s.tile (s.tileOf c)).lasts s.cycle (10 * t)

/-- Make a step due some cycles from now, of its core's clock or of the mesh's (R504). -/
def State.after (s : State) (delay prio : Nat) (what : Instr) (arg : EvArg) : State :=
  { s with agenda := insertItem s.agenda { due := s.dueIn what arg.core delay, prio := prio, what := what, arg := arg } }

/-- Make a step due some cycles of the mesh from now, whatever clock it keeps: what travels. -/
def State.afterWay (s : State) (way prio : Nat) (what : Instr) (arg : EvArg) : State :=
  { s with agenda := insertItem s.agenda { due := s.cycle + way, prio := prio, what := what, arg := arg } }

/-- Make a step due some cycles of a core's clock from now, though it is no step of the core's own: a countdown of its interface (R5). -/
def State.afterOn (s : State) (c : CoreId) (delay prio : Nat) (what : Instr) (arg : EvArg) : State :=
  s.afterWay (s.meshAt c (s.clock c + delay) - s.cycle) prio what arg

/-- The answer of an operation that began in mesh cycle `from_` reaches its core `d` cycles of the mesh from now (R504). -/
def State.afterSeen (s : State) (c : CoreId) (from_ d : Nat) (arg : EvArg) : State :=
  s.afterWay ((s.tile (s.tileOf c)).sees from_ (s.cycle + d) - s.cycle) 0 .engineOperationComplete arg

/-- Drop every item that a test selects. -/
def State.dropItems (s : State) (p : Item → Bool) : State := { s with agenda := s.agenda.filter fun i => !p i }

/-- Arguments naming a core and a thread. -/
def argThr (c : CoreId) (t : Thr) : EvArg := { EvArg.ofCore c with thr := t }
/-- Arguments naming a core and an entry. -/
def argId (c : CoreId) (id : Nat) : EvArg := { EvArg.ofCore c with id := id }

/-- The first cycle of its clock, not before `t`, in which a scavenger owns the turn (R34): each tile's counter advances every cycle of its
clock and was zero in cycle `barrel0`. -/
def State.ownedTurn (s : State) (c : CoreId) (k : Fin 8) (t : Nat) : Nat :=
  t + (k.val + 16 - (t + 8 - (s.tile (s.tileOf c)).barrel0 % 8) % 8) % 8

/-- Make a step of a scavenger due at its first owned turn from cycle `t` of its clock on. -/
def State.atTurn (s : State) (c : CoreId) (k : Fin 8) (t prio : Nat) (what : Instr) : State :=
  s.after (s.ownedTurn c k (max t (s.clock c)) - s.clock c) prio what (argThr c (.scav k))

/-- A scavenger takes part in the barrel rotation from the next cycle on. -/
def State.joinBarrel (s : State) (c : CoreId) (k : Fin 8) : State :=
  (s.dropItems fun i => i.what == .barrelTurn && i.arg.core == c && i.arg.thr == .scav k).atTurn c k (s.clock c + 1) 3 .barrelTurn

/-- The first cycle from `t` on in which an interface's slot is not taken by its periodic report, one in 1,024 cycles (R429; log 106). -/
def pastReport (t : Nat) : Nat := if t % 1024 = 0 ∧ 0 < t then t + 1 else t

/-- Packets of a core take its injection slot, one a cycle (R396). -/
def State.useSlot (s : State) (c : CoreId) (n : Nat) : State :=
  s.modCore c fun x =>
    let t := pastReport (max x.slotUntil s.cycle)
    { x with slotUntil := if n = 0 then max x.slotUntil s.cycle else t + n + ((t + n - 1) / 1024 - t / 1024) }

/-- How long a packet waits for its core's injection slot, which earlier ones take (R396). -/
def State.slotWait (s : State) (c : CoreId) : Nat := pastReport (max (s.core c).slotUntil s.cycle) - s.cycle

/-- Packets of a core are injected: the first in the first free cycle of the slot, and the step follows after the way (R396, R397). -/
def State.sendBy (s : State) (c : CoreId) (n way prio : Nat) (what : Instr) (arg : EvArg) : State :=
  (s.useSlot c n).after (s.slotWait c + way) prio what arg

/-- Packets of the scavenger class wait until no packet of the primary class takes the slot (R396): the step in which their interface looks,
which comes after every other packet of a cycle, is that of `remoteAccessAtHome` with `k` = 4. -/
def State.sendLater (s : State) (c : CoreId) (n way prio : Nat) (what : Instr) (arg : EvArg) : State :=
  let s1 := s.modCore c fun x => { x with slotQ := x.slotQ ++ [⟨n, way, prio, what, arg⟩] }
  if (s.core c).slotQ.isEmpty then s1.after 0 4 .remoteAccessAtHome { EvArg.ofCore c with k := 4 } else s1

/-- Packets of either class (R396). -/
def State.sendClass (s : State) (prim : Bool) (c : CoreId) (n way prio : Nat) (what : Instr) (arg : EvArg) : State :=
  if prim then s.sendBy c n way prio what arg else s.sendLater c n way prio what arg

/-- A core's interface looks at its packets of the scavenger class: the first goes if the slot is free. -/
def State.slotStep (s : State) (c : CoreId) : State :=
  match (s.core c).slotQ with
  | [] => s
  | p :: rest =>
    if s.slotWait c ≠ 0 then s.after 1 4 .remoteAccessAtHome { EvArg.ofCore c with k := 4 }
    else
      let s := ((s.modCore c fun x => { x with slotQ := rest }).useSlot c p.count).after p.way p.prio p.what p.arg
      if rest.isEmpty then s else s.after 1 4 .remoteAccessAtHome { EvArg.ofCore c with k := 4 }

/-- An operation's answer has come: what it writes into the local scratchpad performs in the last cycle before its completion, among the
network-interface accesses, and its tag completes `d` cycles from now (R142, R220). -/
def State.completeIn (s : State) (c : CoreId) (id d : Nat) : State := s.after (d - 1) 2 .engineOperationComplete { argId c id with k := 2 }

/-- A record of 64 bytes goes to a die's supervisor core (R368): a packet of the primary class (R396). -/
def State.sendRecord (s : State) (src : CoreId) (d : Fin 4) (r : Rec64) : State :=
  s.sendBy src 1 (s.oneWay src (supervisorOf d)) 2 .ringRecordWrite { EvArg.ofCore (supervisorOf d) with load := .record r }

/-! ## Bytes and numbers -/

/-- Little-endian bytes to a number (R5). -/
def bytesToNat : List Byte → Nat
  | [] => 0
  | b :: bs => b.toNat + 256 * bytesToNat bs

/-- A number to n little-endian bytes (R5). -/
def natToBytes : Nat → Nat → List Byte
  | 0, _ => []
  | n + 1, v => BitVec.ofNat 8 v :: natToBytes n (v / 256)

/-- The fields of a doubleword, as numbers. -/
def Word.bits (w : Word) (lo len : Nat) : Nat := (w.toNat / 2 ^ lo) % 2 ^ len

/-- The file, doubleword and number of a selector of R270. -/
def selFile (w : Word) : Nat := Word.bits w 24 4
def selDw (w : Word) : Nat := Word.bits w 12 12
def selNum (w : Word) : Nat := Word.bits w 0 12

/-! ## The scratchpad (R312, R148) -/

/-- The physical address of a program address, under a block table. -/
def physAddr (sbt : Vector Word 64) (p : Nat) : Nat :=
  let e := vget sbt (p / 32768)
  (e.toNat % 64) * 32768 + p % 32768

/-- The key of a program byte of a core's scratchpad. -/
def progKey (sbt : Vector Word 64) (c : CoreId) (p : Nat) : Nat := scratchKey c (physAddr sbt p)

/-- n bytes from a program address. -/
def State.readProg (s : State) (c : CoreId) (sbt : Vector Word 64) (p : Nat) : Nat → List Byte
  | 0 => []
  | n + 1 => Memory.get s.mem (progKey sbt c p) :: State.readProg s c sbt (p + 1) n

/-- The number in n bytes at a program address. -/
def State.readProgNat (s : State) (c : CoreId) (sbt : Vector Word 64) (p n : Nat) : Nat :=
  bytesToNat (s.readProg c sbt p n)

/-- Whether a physical doubleword's full-empty bit is full; the list holds the empty ones. -/
def State.isFull (s : State) (key : Nat) : Bool := !(s.empty.contains (key / 8))

/-- Set a physical doubleword's full-empty bit. -/
def State.setFe (s : State) (key : Nat) (full : Bool) : State :=
  { s with empty := if full then eraseNat s.empty (key / 8) else insertNat s.empty (key / 8) }

/-- Mark the 64-byte line of a physical scratchpad address dirty (R263). -/
def State.markDirty (s : State) (c : CoreId) (phys : Nat) : State :=
  s.modCore c fun x => { x with dirty := x.dirty ||| (1#32768 <<< ((phys / 64) % 32768)) }

/-- Write one byte of a scratchpad: the line is dirty, and the doubleword's bit becomes full if `fe` (R148). -/
def State.writeProgByte (s : State) (c : CoreId) (sbt : Vector Word 64) (fe : Bool) (p : Nat) (b : Byte) : State :=
  let ph := physAddr sbt p
  let s := { s with mem := Memory.set s.mem (scratchKey c ph) b }
  let s := s.markDirty c ph
  if fe then s.setFe (scratchKey c ph) true else s

/-- Write bytes from a program address up. -/
def State.writeProg (s : State) (c : CoreId) (sbt : Vector Word 64) (fe : Bool) (p : Nat) : List Byte → State
  | [] => s
  | b :: bs => State.writeProg (s.writeProgByte c sbt fe p b) c sbt fe (p + 1) bs

/-- The block table of a core. -/
def State.sbt (s : State) (c : CoreId) : Vector Word 64 := (s.core c).ctl.sbt

/-! ## Checks of a scratchpad access (R139, R313 to R317) -/

/-- Whether a program block is mapped and resident (R313, R314). -/
def blockSub (sbt : Vector Word 64) (p : Nat) : Option (BitVec 8) :=
  let e := vget sbt (p / 32768)
  if !e.getLsbD 63 then some 2
  else if e.getLsbD 62 || e.getLsbD 61 then some 3
  else none

/-- The permission bits that decide an address: those of the valid covering region of highest number (R315). -/
def regionOf (prb prp : Vector Word 16) (p : Nat) : Option Word :=
  let page := p / 4096
  (List.finRange 16).foldl (fun acc i =>
    let b := prb[i.val]
    if b.getLsbD 63 && decide (Word.bits b 0 9 ≤ page) && decide (page ≤ Word.bits b 32 9) then some prp[i.val]
    else acc) none

/-- Whether the protection unit permits a thread's access (R315, R316). -/
def permits (ctl : CoreCtl) (t : Thr) (write : Bool) (p : Nat) : Bool :=
  match regionOf ctl.prb ctl.prp p with
  | none => true
  | some w =>
    match t, write with
    | .prim, false => w.getLsbD 0
    | .prim, true => w.getLsbD 1
    | .scav _, false => w.getLsbD 2
    | .scav _, true => w.getLsbD 3

/-- Whether the protection unit permits an access from another core (R316). -/
def State.permitsRemote (s : State) (home src : CoreId) (rd wr : Bool) (p : Nat) : Bool :=
  let ctl := (s.core home).ctl
  match regionOf ctl.prb ctl.prp p with
  | none => true
  | some w =>
    (!rd || w.getLsbD 4) && (!wr || w.getLsbD 5) &&
    match Word.bits w 6 2 with
    | 0 => false
    | 1 => decide (dieOf src = dieOf home) && decide (s.tileOf src = s.tileOf home)
    | 2 => decide (dieOf src = dieOf home)
    | _ => true

/-- The sub-cause of `PROT` of one local access at a program address (R139 rows 2 and 3, R317). -/
def protSub (ctl : CoreCtl) (t : Thr) (write : Bool) (p : Nat) : Option (BitVec 8) :=
  if 2 ^ 21 ≤ p then some 1
  else match blockSub ctl.sbt p with
    | some c => some c
    | none => if permits ctl t write p then none else some 4

/-- The first failing page of a local span of bytes (R214 row 3): address and sub-cause. -/
def spanProt (ctl : CoreCtl) (t : Thr) (write : Bool) (p len : Nat) : Option (Nat × BitVec 8) :=
  if len = 0 then none
  else if 2 ^ 21 < p + len then some (if 2 ^ 21 ≤ p then p else 2 ^ 21, 1)
  else
    let first := p / 4096
    let pages := (p + len - 1) / 4096 - first + 1
    ((List.range pages).findSome? fun i =>
      let a := if i = 0 then p else (first + i) * 4096
      (protSub ctl t write a).map fun c => (a, c))

/-! ## Registers of the primary (R40) -/

def Regs.rdS (r : Regs) (i : BitVec 6) : Word := if i = 0 then 0 else r.s[i.toNat]'i.isLt
def Regs.rdP (r : Regs) (i : Nat) : Bool := i == 0 || r.p.getLsbD i
def Regs.rdV (r : Regs) (i : BitVec 6) : Vec := r.v[i.toNat]'i.isLt
def Regs.rdK (r : Regs) (i : BitVec 6) : Mask :=
  if i = 0 then BitVec.allOnes 512 else vget r.k (i.toNat)
def Regs.rdA (r : Regs) (i : Nat) : Tile := vget r.a i
def Regs.rdLatch (r : Regs) (i : Nat) : Vec := vget r.latch i
def Regs.wrS (r : Regs) (i : BitVec 6) (x : Word) : Regs := if i = 0 then r else { r with s := r.s.set i.toNat x i.isLt }
def Regs.wrP (r : Regs) (i : Nat) (x : Bool) : Regs :=
  if i = 0 then r
  else { r with p := if x then r.p ||| (1#16 <<< i) else r.p &&& ~~~(1#16 <<< i) }
def Regs.wrV (r : Regs) (i : BitVec 6) (x : Vec) : Regs := { r with v := r.v.set i.toNat x i.isLt }
def Regs.wrK (r : Regs) (i : BitVec 6) (x : Mask) : Regs :=
  if i = 0 then r else { r with k := vset r.k (i.toNat) x }
def Regs.wrA (r : Regs) (i : Nat) (x : Tile) : Regs := { r with a := vset r.a i x }
/-- Replace one 4,096-bit half of a tile (R205). -/
def Regs.wrHalf (r : Regs) (i : Nat) (h : Bool) (x : Vec) : Regs :=
  let t := r.rdA i
  r.wrA i (if h then (x ++ t.extractLsb' 0 4096 : BitVec 8192) else (t.extractLsb' 4096 4096 ++ x : BitVec 8192))
def Regs.wrLatch (r : Regs) (i : Nat) (x : Vec) : Regs :=
  { r with latch := vset r.latch i x }

/-! ## The thread that issues -/

/-- Whether the issuing thread is privileged (R16). -/
def State.privileged (s : State) : Bool :=
  match s.iss.thr with
  | .prim => isSupervisor s.iss.core
  | .scav _ => false

/-- The program address of a scavenger's register (R30). -/
def hAddr (wp : Word) (i : BitVec 6) : Nat := wp.toNat + 8 * i.toNat

/-- A scavenger's register (R30). -/
def State.rdH (s : State) (c : CoreId) (k : Fin 8) (i : BitVec 6) : Word :=
  BitVec.ofNat 64 (s.readProgNat c (s.sbt c) (hAddr (s.scav c k).wp i) 8)

/-- Write a scavenger's register (R30, R148). -/
def State.wrH (s : State) (c : CoreId) (k : Fin 8) (i : BitVec 6) (x : Word) : State :=
  s.writeProg c (s.sbt c) true (hAddr (s.scav c k).wp i) (natToBytes 8 x.toNat)

/-- The end of a change of `WP` (R31): the thread's next program counter is taken from the new workspace. The bundle there is not checked
for `MISTARGET`, since R87 names branches and the entries of its list alone (DESIGN CHOICE, log 91). -/
def State.takeWp (s : State) (c : CoreId) (k : Fin 8) (w : Word) : State :=
  let npc := BitVec.ofNat 64 (s.readProgNat c (s.sbt c) (w.toNat + 0x100) 8)
  s.modScav c k fun x => { x with wp := w, pc := npc, entryFrom := none, omitAt := none }

/-! ## Bank ports (R140) -/

/-- The bank of a scratchpad address (R36, R312). -/
def bankOf (p : Nat) : Nat := p / 8 % 512

/-- The ports of a core's banks that are taken in a cycle. -/
def Core.portsAt (x : Core) (t : Nat) : PortUse := (x.portUse.find? fun u => u.cycle == t).getD ⟨t, 0, 0, 0⟩

/-- Take banks on one port in one cycle; cycles before `now` are forgotten. -/
def Core.takeBanks (x : Core) (now t port : Nat) (m : BitVec 512) : Core :=
  let u := x.portsAt t
  let u := match port with
    | 0 => { u with p0 := u.p0 ||| m }
    | 1 => { u with p1 := u.p1 ||| m }
    | _ => { u with p2 := u.p2 ||| m }
  { x with portUse := u :: x.portUse.filter fun v => v.cycle != t && decide (now ≤ v.cycle) }

/-- The part of some runs, each a first address and a length, from byte `lo` on for `n` bytes. -/
def runsFrom : List (Nat × Nat) → Nat → Nat → List (Nat × Nat)
  | [], _, _ => []
  | (a, len) :: l, lo, n =>
    if len ≤ lo then runsFrom l (lo - len) n
    else if n ≤ len - lo then [(a + lo, n)]
    else (a + lo, len - lo) :: runsFrom l 0 (n - (len - lo))

/-- Whether a run touches a bank. -/
def runTouches (bank : Nat) (r : Nat × Nat) : Bool :=
  decide (0 < r.2) && decide ((bank + 512 - r.1 / 8 % 512) % 512 ≤ (r.1 + r.2 - 1) / 8 - r.1 / 8)

/-- Whether an engine's accesses take a port of a bank in a cycle. -/
def EngUse.touches (u : EngUse) (t bank : Nat) : Bool :=
  decide (u.start ≤ t) && (runsFrom u.runs (u.width * (t - u.start)) u.width).any (runTouches bank)

/-- The cycle after an engine's last access. -/
def EngUse.ends (u : EngUse) : Nat := u.start + ((u.runs.map Prod.snd).sum + u.width - 1) / u.width

/-- The port of a bank that is free in a cycle, the lowest first: the primary and the scavengers hold ports by number, engines and the
network interface any of those that are left (R140). -/
def Core.freePort (x : Core) (t bank : Nat) : Option Nat :=
  let u := x.portsAt t
  let open_ := [(0, u.p0), (1, u.p1), (2, u.p2)].filter fun p => !p.2.getLsbD bank
  match open_[(x.engUse.filter fun e => e.touches t bank).length]? with
  | none => none
  | some _ => open_.head?.map Prod.fst

/-- A scavenger's access takes a free port of its bank in this cycle (R140): none when there is none. -/
def State.takePort (s : State) (c : CoreId) (p : Nat) : Option State :=
  ((s.core c).freePort (s.clock c) (bankOf p)).map fun i =>
    s.modCore c fun x => x.takeBanks (s.clock c) (s.clock c) i (1#512 <<< bankOf p)

/-- An engine or the network interface accesses runs of a scratchpad, `width` bytes a cycle from cycle `start` on (R140). -/
def State.usePorts (s : State) (c : CoreId) (start width : Nat) (runs : List (Nat × Nat)) : State :=
  let now := s.clock c
  s.modCore c fun x =>
    { x with engUse := { start := start, width := width, runs := runs } :: x.engUse.filter fun u => decide (now < u.ends) }

/-- The physical runs of a span of program addresses, block by block. -/
def blockRuns (sbt : Vector Word 64) (p len : Nat) : List (Nat × Nat) :=
  if len = 0 then []
  else (List.range ((p % 32768 + len + 32767) / 32768)).map fun i =>
    let lo := if i = 0 then p else (p / 32768 + i) * 32768
    (physAddr sbt lo, min (p + len) ((p / 32768 + i + 1) * 32768) - lo)

/-- Engine or network accesses to spans of program addresses take ports from a mesh cycle on, a flit of 32 bytes a cycle (R140; log
100). -/
def State.useSpans (s : State) (c : CoreId) (sbt : Vector Word 64) (from_ : Nat) (l : List (Nat × Nat)) : State :=
  let runs := l.flatMap fun q => blockRuns sbt q.1 q.2
  if runs.isEmpty then s else s.usePorts c ((s.tile (s.tileOf c)).clockAt from_) 32 runs

/-- The primary's access in a slot claims its port of every bank that it touches (R140): port j for one cycle in slot `Lj`, or port 2
for `span` cycles when `span` is greater than one. -/
def State.claimPorts (s : State) (span : Nat) (ps : List Nat) : State :=
  match s.iss.thr with
  | .scav _ => s
  | .prim =>
    let m := ps.foldl (fun (m : BitVec 512) p => m ||| (1#512 <<< bankOf p)) 0
    let port := if span = 1 then s.iss.slot - 4 else 2
    s.modCore s.iss.core fun x =>
      (List.range span).foldl (fun (x : Core) i => x.takeBanks (s.clock s.iss.core) (s.clock s.iss.core + 1 + i) port m) x

/-! ## Traps (R103, R370) -/

/-- The trap codes of R373. -/
def codeILLOP : BitVec 8 := 0x01
def codeRESMAJ : BitVec 8 := 0x02
def codeORPHAN : BitVec 8 := 0x03
def codeMISTARGET : BitVec 8 := 0x04
def codeSLOTCLASH : BitVec 8 := 0x05
def codePROT : BitVec 8 := 0x06
def codeALIGN : BitVec 8 := 0x07
def codeACCBUSY : BitVec 8 := 0x08
def codeOPGUARD : BitVec 8 := 0x09
def codePORTSTALL : BitVec 8 := 0x0A
def codeNOPORT : BitVec 8 := 0x0B
def codeFEWAIT : BitVec 8 := 0x0C
def codeFPX : BitVec 8 := 0x0D
def codeDIVZ : BitVec 8 := 0x0E
def codeQSTALL : BitVec 8 := 0x0F
def codeTRAPI : BitVec 8 := 0x10
def codeSYSC : BitVec 8 := 0x11
def codeWATCH : BitVec 8 := 0x13

/-- Raise an execution fault of the operation in progress (R103). The record names the first faulting operation in slot
order; `TRAP` and `SYS` are marked complete. -/
def State.raise (s : State) (code sub : BitVec 8) (info : Word) (elem : Nat) : State :=
  let r : Raised := { slot := s.iss.slot, waddr := s.iss.waddr, code := code, sub := sub, info := info, elem := elem }
  let complete := code == codeTRAPI || code == codeSYSC
  { s with iss := { s.iss with
      faulted := if complete then s.iss.faulted else s.iss.faulted ||| (1#10 <<< s.iss.slot)
      raised := match s.iss.raised with
        | none => some r
        | some q => if s.iss.slot < q.slot then some r else some q } }

/-- The code section that a thread runs (R287). -/
def Core.codeOf (x : Core) : Thr → List IWord
  | .prim => x.code
  | .scav k => x.scav[k.val].code

/-- The word of a thread's code section at an address; zero where there is none. -/
def Core.wordAt (x : Core) (t : Thr) (a : Nat) : IWord := ((x.codeOf t)[a / 4]?).getD 0

/-- The number of a thread in records (R370). -/
def thrNum : Thr → Nat
  | .prim => 0
  | .scav k => k.val + 1

/-- Doubleword 0 of a fault record (R370). -/
def recordHead (c : CoreId) (t : Thr) (r : FaultRec) (rlen : Nat) : Word :=
  BitVec.ofNat 64 (rlen * 2 ^ 48 + r.slot.toNat * 2 ^ 40 + thrNum t * 2 ^ 26 + c.val * 2 ^ 16 + r.sub.toNat * 2 ^ 8 +
    r.code.toNat)

/-- How many value doublewords a flight entry holds (R371). -/
def flightLen (f : Flight) : Nat :=
  match f.file with
  | .v | .tileHalf => 64
  | .k => 8
  | _ => 1

/-- The length of a record in doublewords (R370, R371). -/
def recordLen (t : Thr) (r : FaultRec) : Nat :=
  match t with
  | .scav _ => 16
  | .prim => 656 + (r.flight.map fun f => 1 + flightLen f).sum

/-- Doublewords 0 to 7: the notice (R370). -/
def recordNotice (c : CoreId) (t : Thr) (r : FaultRec) : Rec64 :=
  #v[recordHead c t r (recordLen t r), r.baddr, r.waddr, r.info, r.stamp, r.bt1, r.bt2,
    BitVec.ofNat 64 ((if r.drn then 2 ^ 32 else 0) + r.pres.toNat * 2 ^ 16 + r.done.toNat)]

/-- The doublewords of pending branches, as R370 lays them out. -/
def Pending.bt1Word (b : Pending) : Word :=
  match b.bt1 with
  | none => 0
  | some t => BitVec.ofNat 64 (t.toNat / 4 * 4 + (if b.gap then 2 else 0) + 1)
def Pending.bt2Word (b : Pending) : Word :=
  match b.bt2 with
  | none => 0
  | some t => BitVec.ofNat 64 (t.toNat / 4 * 4 + 1)

/-- The flight entries in slot order, and in issue order within a slot (R371). -/
def slotOrder (l : List Flight) : List Flight := (List.range 10).flatMap fun k => l.filter fun f => f.slot == k

/-- Take a trap (R370): the thread halts with its record, and the notice goes to the die's supervisor; a supervisor's own
primary is treated under R369. -/
def State.takeTrap (s : State) (c : CoreId) (t : Thr) (r : FaultRec) : State :=
  let n := recordNotice c t r
  match t with
  | .scav k =>
    let s := s.modScav c k fun x => { x with st := .halted, fault := some r, wait := none, win := none, marks := [], ask := none }
    let s := s.modCore c fun x => { x with cacheErr := x.cacheErr.filterMap fun e =>
      let m := e.2 &&& ~~~(1#8 <<< k.val); if m = 0 then none else some (e.1, m) }
    s.sendRecord c (dieOf c) n
  | .prim =>
    let s := s.modPrim c fun p => { p with mode := .halted, fault := some r, hold := none }
    let ctl := (s.core c).ctl
    if isSupervisor c && (!ctl.svrb.getLsbD 63 || ctl.svAct) then
      s.after (s.toTerminus c) 2 .supervisorRestart { EvArg.ofCore c with load := .record n }
    else if isSupervisor c then
      s.after 0 2 .ringRecordWrite { EvArg.ofCore c with k := 1, load := .record n }
    else s.sendRecord c (dieOf c) n

/-- The `INFO` and `CW2` of a fault whose cause is the words at `WADDR` (R373). -/
def wordsInfo (x : Core) (t : Thr) (waddr : Nat) : Word :=
  BitVec.ofNat 64 ((x.wordAt t waddr).toNat + (x.wordAt t (waddr + 4)).toNat * 2 ^ 32)

/-! ## Completion tags (R215) -/

/-- An operation is issued on a tag. -/
def Tag.issue (t : Tag) : Tag :=
  { t with ready := if t.count = 0 then false else t.ready, status := if t.count = 0 then 0 else t.status,
           count := t.count + 1 }

/-- An operation on a tag completes with a status, in a cycle. -/
def Tag.complete (t : Tag) (st : BitVec 2) (now : Word) (cycle : Nat) : Tag :=
  { ready := if t.count ≤ 1 then true else t.ready
    status := if t.status.toNat < st.toNat then st else t.status
    count := t.count - 1
    stamp := if t.count ≤ 1 then now else t.stamp
    doneAt := cycle + 1 }

/-- Change a tag of a thread. A captured context's tags stand with it (R382): `outgoing` selects them. -/
def State.modTag (s : State) (c : CoreId) (t : Thr) (i : Nat) (f : Tag → Tag) : State :=
  match t with
  | .prim => s.modPrim c fun p =>
      { p with tags := vset p.tags i (f (vget p.tags i)) }
  | .scav k => s.modScav c k fun x =>
      { x with tags := vset x.tags i (f (vget x.tags i)) }

/-! ## Results in flight (R19 to R27) -/

/-- A result of the operation in progress, on the primary. -/
def mkFlight (slot : Nat) (file : RFile) (reg : BitVec 6) (nw : Bool) (lat : Nat) (latches : Bool) (flg : BitVec 6)
    (val : Vec) : Flight :=
  { slot := slot, file := file, reg := reg, half := false, creg := 0, nw := nw,
    lcd := if latches then max (lat - 1) 1 else 0, rcd := if nw then 0 else lat, flg := flg, val := val }

/-- Put a result in flight on the primary of the issuing core. -/
def State.fly (s : State) (f : Flight) : State :=
  s.modPrim s.iss.core fun p => { p with flight := p.flight ++ [f] }

/-- A doubleword as a vector value: bits [63:0], the rest zero (R23). -/
def Word.toVec (w : Word) : Vec := w.setWidth 4096

/-- A destination access of the scavenger's operation in progress (R36): a register and the flags that land with it. -/
def State.putH (s : State) (k : Fin 8) (i : BitVec 6) (x : Word) (flg : BitVec 6) : State :=
  { s with iss := { s.iss with dests := s.iss.dests ++ [.reg (hAddr (s.scav s.iss.core k).wp i) x flg] } }

/-- A scalar result of the operation in progress (R19, R36, R104): in flight on the primary, the destination access of a
scavenger's operation. -/
def State.putS (s : State) (op : Op) (lat : Nat) (flg : BitVec 6) (x : Word) : State :=
  match s.iss.thr with
  | .prim => s.fly (mkFlight s.iss.slot .s op.dst op.nw lat true flg (Word.toVec x))
  | .scav k => s.putH k op.dst x flg

/-- A predicate result (R119): a predicate on the primary, 1 or 0 in a scavenger's register (R104). -/
def State.putP (s : State) (dst : BitVec 6) (flg : BitVec 6) (b : Bool) : State :=
  match s.iss.thr with
  | .prim => s.fly (mkFlight s.iss.slot .p dst false 1 false flg (Word.toVec (if b then 1 else 0)))
  | .scav k => s.putH k dst (if b then 1 else 0) flg

/-- A vector result of the operation in progress. -/
def State.putV (s : State) (op : Op) (lat : Nat) (flg : BitVec 6) (x : Vec) : State :=
  s.fly (mkFlight s.iss.slot .v op.dst op.nw lat true flg x)

/-- A mask result of the operation in progress. -/
def State.putK (s : State) (op : Op) (lat : Nat) (flg : BitVec 6) (x : Mask) : State :=
  s.fly (mkFlight s.iss.slot .k op.dst false lat false flg (x.setWidth 4096))

/-- The direction of a field that names a pop (R76). -/
def popDir (x : BitVec 6) (latch : Bool) : Option Nat :=
  if latch && decide (16 ≤ x.toNat) && decide (x.toNat < 20) then some (x.toNat - 16) else none

/-- The directions that an operation's fields pop, in field order (R164). -/
def popDirs (op : Op) : List Nat := [popDir op.a op.la, popDir op.b op.lb, popDir op.c op.lc].filterMap id

/-- A result that takes longer than a scavenger's window (R36): it is ready L cycles after the last source read, and its destination
write follows. An operation with pops performs in the cycle of that write, since its pops do (R443). -/
def State.putLong (s : State) (op : Op) (lat : Nat) (flg : BitVec 6) (x : Word) : State :=
  match s.iss.thr with
  | .prim => s.putS op lat flg x
  | .scav k =>
    if !(popDirs op).isEmpty then s.putH k op.dst x flg else
    let s := { s with iss := { s.iss with lands := true } }
    s.after lat 4 .scavengerLongResult { EvArg.ofCore s.iss.core with thr := .scav k, k := op.dst.toNat, id := flg.toNat, dw := x }

/-! ## Waits (R47, R522) -/

/-- The wait that the issuing thread has begun. -/
def State.heldNow (s : State) : Option Hold :=
  match s.iss.thr with
  | .prim => (s.prim s.iss.core).hold
  | .scav k => (s.scav s.iss.core k).wait

/-- The operation in progress is marked to issue again: the bundle's bound is the smallest of its waits', and a scavenger is not ready;
`mem` counts its turns in `RES.MEM` (R38). -/
def State.markWaiting (s : State) (mem : Bool) (bound : Nat) (code : BitVec 8) (h : Hold) : State :=
  let new := decide (s.iss.bcode = 0 ∨ (code ≠ 0 ∧ bound < s.iss.bound))
  let t := { s with iss := { s.iss with
    again := true
    waited := s.iss.waited ||| (1#10 <<< s.iss.slot)
    bound := if new then bound else s.iss.bound
    bcode := if new then code else s.iss.bcode } }
  match s.iss.thr with
  | .prim => t
  | .scav k => t.modScav s.iss.core k fun x => { x with st := .notReady mem, wait := some h }

/-- The wait of the operation in progress: one already begun stands. -/
def State.waitHold (s : State) (bound : Nat) (code : BitVec 8) (info : Nat) : Hold :=
  s.heldNow.getD ⟨s.clock s.iss.core, bound, code, info⟩

/-- Whether the wait's bound has run out, counted from the first cycle held; a scavenger's wait keeps the bound with which it began.
Code 0 marks a wait without a bound (R47). -/
def State.waitOver (s : State) (bound : Nat) (code : BitVec 8) (info : Nat) : Bool :=
  let h := s.waitHold bound code info
  let limit := match s.iss.thr with | .prim => bound | .scav _ => h.bound
  code != 0 && decide (h.since + limit ≤ s.clock s.iss.core)

/-- The bound of a wait has run out: its trap is raised (R47). -/
def State.expire (s : State) (code : BitVec 8) (info : Nat) : State :=
  let s := s.raise code 0 (BitVec.ofNat 64 info) 0
  { s with iss := { s.iss with expired := true } }

/-- The operation in progress waits: while its bound lasts it issues again, and when it has run out its trap is raised (R47). -/
def State.block (s : State) (mem : Bool) (bound : Nat) (code : BitVec 8) (info : Nat) : State :=
  if s.waitOver bound code info then s.expire code info else s.markWaiting mem bound code (s.waitHold bound code info)

/-! ## The predicate of an operation (R18) -/

/-- Whether an operation executes: a scavenger's always does (R91). -/
def State.holds (s : State) (op : Op) : Bool :=
  match s.iss.thr with
  | .prim => (s.prim s.iss.core).regs.rdP op.pred.toNat != op.pneg
  | .scav _ => true

/-- How many values wait in a thread's receive queue. -/
def State.queued (s : State) (c : CoreId) (t : Thr) (dir : Nat) : Nat :=
  match t with
  | .prim => (vget (s.prim c).portq dir).length
  | .scav k => (vget (s.scav c k).portq dir).length

/-- An operand pop of an open direction raises `NOPORT` (R168, R441); a pop of an empty queue waits (R444, R445). -/
def State.withPops (s : State) (op : Op) (f : State → State) : State :=
  match popDirs op with
  | [] => f s
  | ds =>
    match ds.find? fun d => (s.neighbour s.iss.core d).isNone with
    | some d => s.raise codeNOPORT 0 (BitVec.ofNat 64 d) 0
    | none =>
      match ds.find? fun d => decide (s.queued s.iss.core s.iss.thr d < ds.count d) with
      | some d => s.block false (s.core s.iss.core).ctl.qlimit.toNat codePORTSTALL d
      | none => f s

/-- An operation whose predicate is false has no effect (R18). -/
def performBare (op : Op) (s : State) (f : State → State) : Out := .next (if s.holds op then f s else s)

/-- The same with the operation's pops checked first. -/
def perform (op : Op) (s : State) (f : State → State) : Out := performBare op s fun s => s.withPops op f

end Sys2Proof.Machine
end

