-- ==== Sys2Proof/Machine/Operands.lean ====
section
/-! DEFINITION. Every operand form: immediates (R70, R72, R81), scalar, latch, pop and broadcast sources (R76, R77, R104),
element types (R74), effective addresses (R136), and the queues of the neighbour ports that pops take from (R443). -/

namespace Sys2Proof.Machine

open Sys2Proof

/-! ## Immediates -/

end Sys2Proof.Machine

namespace Sys2Proof

open Sys2Proof.Machine

/-- `x12` as an immediate: signed, or the low bits under `IMMX` (R81). -/
def Op.imm12 (o : Op) : Word :=
  match o.pfx with
  | .immx hi => (hi ++ o.x12 : BitVec 35).signExtend 64
  | _ => o.x12.signExtend 64

/-- `imm24` of a wide tail: signed, or the low bits under `IMMX` (R81). -/
def Op.imm24 (o : Op) : Word :=
  match o.pfx with
  | .immx hi => (hi ++ o.imm : BitVec 47).signExtend 64
  | _ => o.imm.signExtend 64

/-- `imm11` of `ADDI` (R70, R81). -/
def Op.imm11 (o : Op) : Word :=
  match o.pfx with
  | .immx hi => (hi ++ o.imm.setWidth 11 : BitVec 34).signExtend 64
  | _ => (o.imm.setWidth 11).signExtend 64

end Sys2Proof

namespace Sys2Proof.Machine

open Sys2Proof

/-! ## Element types (R74) -/

/-- The element types. -/
inductive Ty where
  | f32
  | f64
  | f16
  | f8e4
  | f8e5
  | bf16
  | f4e2
  | i8
  | i16
  | i32
  | i64
  | n8
  | n16
  | n32
  | n64
  deriving DecidableEq, Repr

/-- The type of a nonzero code. -/
def tyOfCode : Nat → Option Ty
  | 1 => some .f32
  | 2 => some .f64
  | 3 => some .f16
  | 4 => some .f8e4
  | 5 => some .f8e5
  | 6 => some .bf16
  | 7 => some .f4e2
  | 8 => some .i8
  | 9 => some .i16
  | 10 => some .i32
  | 11 => some .i64
  | 12 => some .n8
  | 13 => some .n16
  | 14 => some .n32
  | 15 => some .n64
  | _ => none

/-- The width of a type in bits. -/
def Ty.width : Ty → Nat
  | .f64 | .i64 | .n64 => 64
  | .f32 | .i32 | .n32 => 32
  | .f16 | .bf16 | .i16 | .n16 => 16
  | .f8e4 | .f8e5 | .i8 | .n8 => 8
  | .f4e2 => 4

/-- Whether a type is a floating-point type. -/
def Ty.isFloat : Ty → Bool
  | .f32 | .f64 | .f16 | .f8e4 | .f8e5 | .bf16 | .f4e2 => true
  | _ => false

/-- Whether a type is a signed integer type. -/
def Ty.isSigned : Ty → Bool
  | .i8 | .i16 | .i32 | .i64 => true
  | _ => false

/-- The width that `esz` gives (R71). -/
def eszWidth (e : BitVec 2) : Nat := 8 * 2 ^ e.toNat

end Sys2Proof.Machine

namespace Sys2Proof

open Sys2Proof.Machine

/-- The one-type code of an operation, in `x12`[7:4] (R74). -/
def Op.tyCode (o : Op) : Nat := Word.bits (o.x12.setWidth 64) 4 4
/-- The modifier of an operation, in `x12`[3:0] (R74). -/
def Op.modifier (o : Op) : Nat := Word.bits (o.x12.setWidth 64) 0 4
/-- A field of `x12`. -/
def Op.xbits (o : Op) (lo len : Nat) : Nat := Word.bits (o.x12.setWidth 64) lo len

end Sys2Proof

namespace Sys2Proof.Machine

open Sys2Proof

/-- The default type of a scalar floating-point operation (R123). -/
def scalarFloatDefault (e : BitVec 2) : Option Ty :=
  match e.toNat with
  | 3 => some .f64
  | 2 => some .f32
  | 1 => some .f16
  | _ => none

end Sys2Proof.Machine

namespace Sys2Proof

open Sys2Proof.Machine

/-- The type of a scalar floating-point operation (R123). -/
def Op.scalarTy (o : Op) : Option Ty :=
  if o.tyCode = 0 then scalarFloatDefault o.esz else tyOfCode o.tyCode

end Sys2Proof

namespace Sys2Proof.Machine

open Sys2Proof

/-! ## Ports: latency, pops, credits (R441 to R443) -/

/-- The delivery latency of a direction, none for an open one (R442). -/
def State.portLat (s : State) (c : CoreId) (dir : Nat) : Option Nat :=
  (s.neighbour c dir).map fun d => 2 + routeCost (s.xy c) (s.xy d)

/-- The direction that faces back (R240: 0 N, 1 E, 2 S, 3 W). -/
def opposite (dir : Nat) : Nat := (dir + 2) % 4

/-- One credit travels back to the neighbour that pushed (R443). -/
def State.returnCredit (s : State) (c : CoreId) (t : Thr) (dir : Nat) : State :=
  match s.neighbour c dir, s.portLat c dir with
  | some d, some l => s.after l 0 .portCreditReturn { EvArg.ofCore d with thr := t, k := opposite dir }
  | _, _ => s

/-- Pop the head of the primary's receive queue (R443). -/
def State.popPrim (s : State) (c : CoreId) (dir : Nat) : Vec × State :=
  let q := vget (s.prim c).portq dir
  match q with
  | [] => (0, s)
  | v :: r =>
    (v, (s.modPrim c fun p => { p with portq := vset p.portq dir r }).returnCredit c .prim dir)

/-- Pop the head of a scavenger's word queue (R443). -/
def State.popScav (s : State) (c : CoreId) (k : Fin 8) (dir : Nat) : Word × State :=
  let q := vget (s.scav c k).portq dir
  match q with
  | [] => (0, s)
  | v :: r =>
    (v, (s.modScav c k fun p => { p with portq := vset p.portq dir r }).returnCredit c (.scav k) dir)

/-- The receive queue of a thread, words as vectors. -/
def State.portQueue (s : State) (c : CoreId) (t : Thr) (dir : Nat) : List Vec :=
  match t with
  | .prim => vget (s.prim c).portq dir
  | .scav k => (vget (s.scav c k).portq dir).map Word.toVec

/-- The operation in progress does not perform: what it has popped since `s0` goes back when its bundle ends (R168). Until then the bundle's
other operations pop the values behind. -/
def State.oweBack (s0 s : State) : State :=
  let c := s.iss.core
  let t := s.iss.thr
  { s with iss := { s.iss with putBack := s.iss.putBack ++ (List.range 4).flatMap fun d =>
      ((s0.portQueue c t d).take ((s0.portQueue c t d).length - (s.portQueue c t d).length)).map fun v => (d, v) } }

/-- Drop one item that a test selects. -/
def dropOne (p : Item → Bool) : List Item → List Item
  | [] => []
  | i :: l => if p i then l else i :: dropOne p l

/-- A popped value goes back to the head of its queue, and its credit does not return (R168, R448). -/
def State.putBack (s : State) (c : CoreId) (t : Thr) (q : Nat × Vec) : State :=
  let s := match t with
    | .prim => s.modPrim c fun p => { p with portq := vset p.portq q.1 (q.2 :: vget p.portq q.1) }
    | .scav k => s.modScav c k fun p => { p with portq := vset p.portq q.1 (q.2.setWidth 64 :: vget p.portq q.1) }
  match s.neighbour c q.1, s.portLat c q.1 with
  | some d, some l => { s with agenda := dropOne (fun i => i.what == .portCreditReturn && i.arg.core == d && i.arg.thr == t &&
      i.arg.k == opposite q.1 && i.due == s.cycle + l) s.agenda }
  | _, _ => s

/-- Every value that faulting operations popped goes back, the first popped to the head. -/
def State.putAllBack (s : State) (c : CoreId) (t : Thr) (l : List (Nat × Vec)) : State := l.reverse.foldl (fun s q => s.putBack c t q) s

/-! ## Latch-space codes (R76) -/

/-- A latch code `0x00` to `0x09`. -/
def isLatchCode (x : BitVec 6) : Bool := decide (x.toNat < 10)
/-- A pop code `0x10` to `0x13`. -/
def isPopCode (x : BitVec 6) : Bool := decide (16 ≤ x.toNat) && decide (x.toNat < 20)
/-- A broadcast code `0x20` to `0x3F`. -/
def isBcCode (x : BitVec 6) : Bool := decide (32 ≤ x.toNat)

/-- The scalar that a broadcast code names, `XA` to `XC` selecting `s32` to `s63` (R76, R82). -/
def bcReg (x : BitVec 6) (hi : Bool) : BitVec 6 := BitVec.ofNat 6 (x.toNat - 32 + if hi then 32 else 0)

/-! ## Sources -/

/-- A register of the issuing scavenger: as its window has read it, else as it stands (R36). -/
def State.srcH (s : State) (k : Fin 8) (x : BitVec 6) : Word :=
  match s.iss.got.find? fun p => p.1 == x with
  | some p => p.2
  | none => s.rdH s.iss.core k x

/-- A scalar source field: a register, bits [63:0] of a latch, or a pop (R24, R76, R104). -/
def State.srcS (s : State) (x : BitVec 6) (latch : Bool) : Word × State :=
  match s.iss.thr with
  | .prim =>
    let r := (s.prim s.iss.core).regs
    if !latch then (r.rdS x, s)
    else if isPopCode x then
      let q := s.popPrim s.iss.core (x.toNat - 16)
      (q.1.setWidth 64, q.2)
    else ((r.rdLatch x.toNat).setWidth 64, s)
  | .scav k =>
    if !latch then (s.srcH k x, s)
    else s.popScav s.iss.core k (x.toNat - 16)

/-- A predicate source field of the primary: a predicate, or bit 0 of what a latch-space code names (R24, R76; log 70). -/
def State.srcP (s : State) (x : BitVec 6) (latch : Bool) : Bool × State :=
  if !latch then ((s.prim s.iss.core).regs.rdP x.toNat, s)
  else
    let q := s.srcS x true
    (q.1.getLsbD 0, q.2)

/-- Two scalar sources, `a` then `b`. -/
def State.srcAB (s : State) (o : Op) : Word × Word × State :=
  let p := s.srcS o.a o.la
  let q := p.2.srcS o.b o.lb
  (p.1, q.1, q.2)

/-- Three scalar sources, `a`, `b`, `c`. -/
def State.srcABC (s : State) (o : Op) : Word × Word × Word × State :=
  let p := s.srcAB o
  let q := p.2.2.srcS o.c o.lc
  (p.1, p.2.1, q.1, q.2)

/-- One, two or three scalar sources; the others are zero. -/
def State.srcN (s : State) (o : Op) (n : Nat) : Word × Word × Word × State :=
  if n = 1 then ((s.srcS o.a o.la).1, 0, 0, (s.srcS o.a o.la).2)
  else if n = 2 then ((s.srcAB o).1, (s.srcAB o).2.1, 0, (s.srcAB o).2.2)
  else s.srcABC o

/-- An "s" source of an L-, M- or X-class operation: no pops (R137, R190, R212). -/
def State.valS (s : State) (x : BitVec 6) (latch : Bool) : Word := (s.srcS x latch).1

/-- A w-bit pattern in every element (R77). -/
def splat (w : Nat) (x : Nat) : Vec :=
  BitVec.ofNat 4096 ((x % 2 ^ w) * ((2 ^ 4096 - 1) / (2 ^ w - 1)))

/-- The w-bit patterns of a vector, lowest element first. -/
def lanes (w n : Nat) (v : Nat) : List Nat :=
  match n with
  | 0 => []
  | n + 1 => v % 2 ^ w :: lanes w n (v / 2 ^ w)

/-- A vector from its w-bit patterns. -/
def ofLanes (w : Nat) : List Nat → Nat
  | [] => 0
  | x :: xs => x % 2 ^ w + 2 ^ w * ofLanes w xs

/-- The elements of a vector (R40). -/
def Vec.elems (w : Nat) (v : Vec) : List Nat := lanes w (4096 / w) v.toNat
/-- A vector of elements (R40). -/
def Vec.ofElems (w : Nat) (l : List Nat) : Vec := BitVec.ofNat 4096 (ofLanes w l)

/-- A V-class source field: a register, a latch, a pop, or a broadcast of width w (R24, R76, R77). -/
def State.srcV (s : State) (x : BitVec 6) (latch hi : Bool) (w : Nat) : Vec × State :=
  let r := (s.prim s.iss.core).regs
  if !latch then (r.rdV x, s)
  else if isBcCode x then (splat w (r.rdS (bcReg x hi)).toNat, s)
  else if isPopCode x then s.popPrim s.iss.core (x.toNat - 16)
  else (r.rdLatch x.toNat, s)

end Sys2Proof.Machine

namespace Sys2Proof

open Sys2Proof.Machine

/-- `XA`, `XB`, `XC` of an operation (R82). -/
def Op.xa (o : Op) : Bool := match o.pfx with | .latchx a _ _ => a | _ => false
def Op.xb (o : Op) : Bool := match o.pfx with | .latchx _ b _ => b | _ => false
def Op.xc (o : Op) : Bool := match o.pfx with | .latchx _ _ c => c | _ => false

end Sys2Proof

namespace Sys2Proof.Machine

open Sys2Proof

/-! ## Effective addresses (R136) -/

end Sys2Proof.Machine

namespace Sys2Proof

open Sys2Proof.Machine

/-- The modifier bits of field `c` of the scalar address form (R137). -/
def Op.shiftAmt (o : Op) : Nat := o.c.toNat % 4
def Op.sx (o : Op) : Bool := o.c.getLsbD 2
def Op.lop (o : Op) : Nat := o.c.toNat / 8

end Sys2Proof

namespace Sys2Proof.Machine

open Sys2Proof

/-- EA of the scalar address form: s[a] + (b ≠ 0 ? s[b] << sh : 0) + offset (R136). -/
def State.ea (s : State) (o : Op) : Word :=
  let idx := if o.b = 0 && !o.lb then 0 else s.valS o.b o.lb <<< o.shiftAmt
  s.valS o.a o.la + idx + Op.imm12 o

/-- EA of the atomic form and of strided and broadcast vector accesses: s[a] + offset (R144, R154). -/
def State.eaBase (s : State) (o : Op) : Word := s.valS o.a o.la + Op.imm12 o

end Sys2Proof.Machine
end

