-- ==== Sys2Proof/Machine/Float.lean ====
section
/-! DEFINITION. Floating-point formats, values, rounding and exact sums (R48 to R66). -/

namespace Sys2Proof.Machine

open Sys2Proof

/-! ## Formats (R48) -/

/-- How a format uses its top exponent: for infinity and signalling and quiet NaNs, for infinity and quiet NaNs, for one
NaN pattern, or for numbers only. -/
inductive FKind where
  | ieee
  | e5m2
  | e4m3
  | e2m1
  deriving DecidableEq, Repr

/-- A format: exponent and mantissa widths, bias, kind. -/
structure FFmt where
  ebits : Nat
  mbits : Nat
  bias : Nat
  kind : FKind
  deriving DecidableEq, Repr

/-- The format of a floating-point type (R48). -/
def fmtOf : Ty → FFmt
  | .f64 => ⟨11, 52, 1023, .ieee⟩
  | .f16 => ⟨5, 10, 15, .ieee⟩
  | .bf16 => ⟨8, 7, 127, .ieee⟩
  | .f8e4 => ⟨4, 3, 7, .e4m3⟩
  | .f8e5 => ⟨5, 2, 15, .e5m2⟩
  | .f4e2 => ⟨2, 1, 1, .e2m1⟩
  | _ => ⟨8, 23, 127, .ieee⟩

def FFmt.width (f : FFmt) : Nat := 1 + f.ebits + f.mbits
/-- The bits of an infinity, sign aside. -/
def FFmt.infBits (f : FFmt) : Nat := (2 ^ f.ebits - 1) * 2 ^ f.mbits
def FFmt.hasInf (f : FFmt) : Bool := f.kind == .ieee || f.kind == .e5m2
/-- The canonical NaN (R48); FP4 has none, and its conversion gives +0 (R59). -/
def FFmt.nan (f : FFmt) : Nat :=
  match f.kind with
  | .ieee | .e5m2 => f.infBits + 2 ^ (f.mbits - 1)
  | .e4m3 => 0x7F
  | .e2m1 => 0
/-- The bits of the largest finite value, sign aside. -/
def FFmt.largest (f : FFmt) : Nat :=
  match f.kind with
  | .ieee | .e5m2 => f.infBits - 1
  | .e4m3 => 0x7E
  | .e2m1 => 7
/-- The least exponent of a candidate: 1 − bias − mbits (R55). -/
def FFmt.qmin (f : FFmt) : Int := 1 - (f.bias : Int) - (f.mbits : Int)
def FFmt.signBit (f : FFmt) (neg : Bool) : Nat := if neg then 2 ^ (f.ebits + f.mbits) else 0

/-! ## Values -/

/-- The value of a pattern: a NaN, an infinity, or ±m × 2^e (a zero keeps its sign). -/
inductive FVal where
  | nan (sig : Bool)
  | inf (neg : Bool)
  | fin (neg : Bool) (m : Nat) (e : Int)
  deriving DecidableEq, Repr

/-- The value of a pattern (R48, R49). -/
def decodeF (f : FFmt) (x : Nat) : FVal :=
  let neg := x / 2 ^ (f.ebits + f.mbits) % 2 == 1
  let ex := x / 2 ^ f.mbits % 2 ^ f.ebits
  let ma := x % 2 ^ f.mbits
  let top := ex == 2 ^ f.ebits - 1
  let special := match f.kind with
    | .ieee | .e5m2 => top
    | .e4m3 => top && ma == 7
    | .e2m1 => false
  if special then
    if f.hasInf && ma == 0 then .inf neg
    else .nan (f.kind == .ieee && decide (ma < 2 ^ (f.mbits - 1)))
  else if ex = 0 then .fin neg ma f.qmin
  else .fin neg (ma + 2 ^ f.mbits) (f.qmin + ((ex : Int) - 1))

/-- Whether a pattern is subnormal (R48). -/
def isSubnormal (f : FFmt) (x : Nat) : Bool := x / 2 ^ f.mbits % 2 ^ f.ebits == 0 && x % 2 ^ f.mbits != 0

/-- An operand: under a flush a subnormal reads as a zero of its sign (R58). -/
def operandF (f : FFmt) (ftz : Bool) (x : Nat) : FVal :=
  if ftz && isSubnormal f x then .fin (x / 2 ^ (f.ebits + f.mbits) % 2 == 1) 0 0 else decodeF f x

def FVal.isNan : FVal → Bool | .nan _ => true | _ => false
def FVal.isSig : FVal → Bool | .nan s => s | _ => false
def FVal.isInf : FVal → Bool | .inf _ => true | _ => false
def FVal.isZero : FVal → Bool | .fin _ 0 _ => true | _ => false
def FVal.isNeg : FVal → Bool | .nan _ => false | .inf n => n | .fin n _ _ => n
def FVal.negate : FVal → FVal
  | .nan s => .nan s
  | .inf n => .inf (!n)
  | .fin n m e => .fin (!n) m e

/-! ## Flags and rounding (R54, R55) -/

def flagNX : BitVec 6 := 1
def flagUF : BitVec 6 := 2
def flagOF : BitVec 6 := 4
def flagDZ : BitVec 6 := 8
def flagNV : BitVec 6 := 16
def flagSAT : BitVec 6 := 32

/-- A result: its pattern, its flags, and whether it was tiny and not zero before rounding (R66). -/
structure FRes where
  bits : Nat
  flg : BitVec 6
  tiny : Bool
  deriving DecidableEq, Repr

def FRes.of (x : Nat) : FRes := ⟨x, 0, false⟩
/-- The canonical NaN with flags. -/
def nanRes (f : FFmt) (flg : BitVec 6) : FRes := ⟨f.nan, flg, false⟩

/-- The modes of an operation: rounding code, saturating, flush (R54). -/
structure FMode where
  rnd : Nat
  sat : Bool
  ftz : Bool
  deriving DecidableEq, Repr

/-- `.rn`, non-saturating, no flush. -/
def modeRn : FMode := ⟨0, false, false⟩

/-- Overflow of R55. -/
def overflowF (f : FFmt) (md : FMode) (neg : Bool) : FRes :=
  let sg := f.signBit neg
  if md.sat then ⟨sg + f.largest, flagNX ||| flagSAT, false⟩
  else
    let fl := flagNX ||| flagOF
    if !f.hasInf then ⟨f.nan, fl, false⟩
    else match md.rnd with
      | 1 => ⟨sg + f.largest, fl, false⟩
      | 2 => ⟨if neg then sg + f.largest else f.infBits, fl, false⟩
      | 3 => ⟨if neg then sg + f.infBits else f.largest, fl, false⟩
      | _ => ⟨sg + f.infBits, fl, false⟩

/-- Whether rounding goes away from zero: the kept integer n, the part dropped `rem` of 2^sh (R54). -/
def roundsUp (rnd : Nat) (neg : Bool) (n rem sh : Nat) : Bool :=
  if rem = 0 then false
  else match rnd with
    | 0 => decide (2 ^ sh < 2 * rem) || (2 * rem == 2 ^ sh && n % 2 == 1)
    | 1 => false
    | 2 => !neg
    | 3 => neg
    | _ => decide (2 ^ sh ≤ 2 * rem)

/-- `RoundTo` of ±m × 2^e with m nonzero (R55). A result that rounds to zero keeps the sign of the exact value: R55 returns a zero there
without naming its sign, and R56 speaks of exact zeros (log 97). -/
def roundTo (f : FFmt) (md : FMode) (neg : Bool) (m : Nat) (e : Int) : FRes :=
  let q := max ((Nat.log2 m : Int) + e - (f.mbits : Int)) f.qmin
  let sh := (q - e).toNat
  let n0 := if q ≤ e then m * 2 ^ (e - q).toNat else m / 2 ^ sh
  let rem := if q ≤ e then 0 else m % 2 ^ sh
  let n := if roundsUp md.rnd neg n0 rem sh then n0 + 1 else n0
  let bits := (q - f.qmin).toNat * 2 ^ f.mbits + n
  let inexact := rem != 0
  let sg := f.signBit neg
  if f.largest < bits then overflowF f md neg
  else if q = f.qmin ∧ n < 2 ^ f.mbits then
    if md.ftz then ⟨sg, flagUF ||| flagNX, true⟩
    else ⟨sg + bits, if inexact then flagUF ||| flagNX else 0, true⟩
  else ⟨sg + bits, if inexact then flagNX else 0, false⟩

/-! ## Exact sums and products (R56, R57) -/

/-- A signed integer of a finite value at an exponent not above its own. -/
def FVal.at_ (x : FVal) (e0 : Int) : Int :=
  match x with
  | .fin n m e => (if n then -1 else 1) * ((m * 2 ^ (e - e0).toNat : Nat) : Int)
  | _ => 0

/-- The exponent of a finite nonzero value. -/
def FVal.expo : FVal → Option Int
  | .fin _ m e => if m = 0 then none else some e
  | _ => none

/-- The least exponent of the nonzero terms. -/
def minExpo (l : List FVal) : Int :=
  match l.filterMap FVal.expo with
  | [] => 0
  | e :: r => r.foldl min e

/-- A product and whether it is invalid, 0 × ∞ (R57). -/
def FVal.mul (x y : FVal) : FVal × Bool :=
  let neg := x.isNeg != y.isNeg
  match x, y with
  | .nan s, .nan t => (.nan (s || t), false)
  | .nan s, _ => (.nan s, false)
  | _, .nan t => (.nan t, false)
  | .inf _, .inf _ => (.inf neg, false)
  | .inf _, .fin _ m _ => if m = 0 then (.nan false, true) else (.inf neg, false)
  | .fin _ m _, .inf _ => if m = 0 then (.nan false, true) else (.inf neg, false)
  | .fin _ m e, .fin _ n g => (.fin neg (m * n) (e + g), false)

/-- The sign of an exact zero sum of terms (R56). -/
def zeroSign (md : FMode) (terms : List FVal) : Bool :=
  terms.all (fun t => t.isZero && t.isNeg) || (md.rnd == 3 && terms.any fun t => !t.isZero)

/-- The exact sum of terms, rounded once (R55 to R57). -/
def sumF (f : FFmt) (md : FMode) (terms : List FVal) : FRes :=
  if terms.any FVal.isNan then nanRes f (if terms.any FVal.isSig then flagNV else 0)
  else
    let pos := terms.any fun t => t.isInf && !t.isNeg
    let neg := terms.any fun t => t.isInf && t.isNeg
    if pos && neg then nanRes f flagNV
    else if pos then FRes.of f.infBits
    else if neg then FRes.of (f.signBit true + f.infBits)
    else
      let e0 := minExpo terms
      let total := terms.foldl (fun (a : Int) t => a + t.at_ e0) 0
      if total = 0 then FRes.of (f.signBit (zeroSign md terms))
      else roundTo f md (decide (total < 0)) total.natAbs e0

/-- A fused a × b + c (R57, R60, R65). -/
def fmaF (f : FFmt) (md : FMode) (x y z : FVal) : FRes :=
  let p := x.mul y
  let r := sumF f md [p.1, z]
  if p.2 then nanRes f flagNV
  else if x.isSig || y.isSig || z.isSig then nanRes f flagNV
  else r

/-- A product rounded once; an exact zero has the exclusive-or of the signs (R56). -/
def mulF (f : FFmt) (md : FMode) (x y : FVal) : FRes :=
  let p := x.mul y
  if p.2 then nanRes f flagNV
  else match p.1 with
    | .nan _ => nanRes f (if x.isSig || y.isSig then flagNV else 0)
    | .inf n => FRes.of (f.signBit n + f.infBits)
    | .fin n m e => if m = 0 then FRes.of (f.signBit n) else roundTo f md n m e

/-- A quotient rounded once: enough quotient bits and a sticky bit below them (R55, R57). -/
def divF (f : FFmt) (md : FMode) (x y : FVal) : FRes :=
  let neg := x.isNeg != y.isNeg
  match x, y with
  | .nan s, .nan t => nanRes f (if s || t then flagNV else 0)
  | .nan s, _ => nanRes f (if s then flagNV else 0)
  | _, .nan t => nanRes f (if t then flagNV else 0)
  | .inf _, .inf _ => nanRes f flagNV
  | .inf _, .fin .. => FRes.of (f.signBit neg + f.infBits)
  | .fin .., .inf _ => FRes.of (f.signBit neg)
  | .fin _ m e, .fin _ n g =>
    if n = 0 then if m = 0 then nanRes f flagNV else ⟨f.signBit neg + f.infBits, flagDZ, false⟩
    else if m = 0 then FRes.of (f.signBit neg)
    else
      let k := (f.mbits + 4 + Nat.log2 n) - Nat.log2 m
      let q := m * 2 ^ k / n
      roundTo f md neg (2 * q + (if m * 2 ^ k % n = 0 then 0 else 1)) (e - g - (k : Int) - 1)

/-- The integer square root, by binary digits from 2^i down. -/
def isqrt (x : Nat) : Nat → Nat → Nat
  | 0, r => if (r + 1) * (r + 1) ≤ x then r + 1 else r
  | i + 1, r => isqrt x i (if (r + 2 ^ (i + 1)) * (r + 2 ^ (i + 1)) ≤ x then r + 2 ^ (i + 1) else r)

/-- A square root rounded once (R55, R57). -/
def sqrtF (f : FFmt) (md : FMode) (x : FVal) : FRes :=
  match x with
  | .nan s => nanRes f (if s then flagNV else 0)
  | .inf true => nanRes f flagNV
  | .inf false => FRes.of f.infBits
  | .fin neg m e =>
    if m = 0 then FRes.of (f.signBit neg)
    else if neg then nanRes f flagNV
    else
      let odd := e % 2 = 1
      let m1 := if odd then 2 * m else m
      let e1 := if odd then e - 1 else e
      let k := f.mbits + 4
      let big := m1 * 2 ^ (2 * k)
      let r := isqrt big (Nat.log2 big / 2 + 1) 0
      roundTo f md false (2 * r + (if r * r = big then 0 else 1)) (e1 / 2 - (k : Int) - 1)

/-! ## Comparison, extremes and classes (R126, R127, R129) -/

/-- x < y of values that are not NaN; zeros are equal. -/
def FVal.lt (x y : FVal) : Bool :=
  match x, y with
  | .inf n, .inf n' => n && !n'
  | .inf n, .fin .. => n
  | .fin .., .inf n' => !n'
  | .fin .., .fin .. => let e0 := minExpo [x, y]; decide (x.at_ e0 < y.at_ e0)
  | _, _ => false

def FVal.eqv (x y : FVal) : Bool := !x.isNan && !y.isNan && !x.lt y && !y.lt x

/-- x before y with −0 below +0 (R126, R226). -/
def FVal.before (x y : FVal) : Bool := x.lt y || (x.eqv y && x.isZero && x.isNeg && !y.isNeg)

/-- The pattern of an operand after any flush (R126). -/
def flushed (f : FFmt) (ftz : Bool) (x : Nat) : Nat :=
  if ftz && isSubnormal f x then x / 2 ^ (f.ebits + f.mbits) * 2 ^ (f.ebits + f.mbits) else x

/-- `FMIN` and `FMAX` on patterns of a format's width (R126). -/
def minmaxF (f : FFmt) (ftz isMax : Bool) (x y : Nat) : FRes :=
  let a := operandF f ftz x
  let b := operandF f ftz y
  if a.isSig || b.isSig then nanRes f flagNV
  else if a.isNan && b.isNan then nanRes f 0
  else if a.isNan then FRes.of (flushed f ftz y)
  else if b.isNan then FRes.of (flushed f ftz x)
  else
    let takeY := if isMax then a.before b else b.before a
    FRes.of (if takeY then flushed f ftz y else flushed f ftz x)

/-- The conditions of R127: the truth value and the `NV` flag. -/
def cmpF (code : Nat) (a b : FVal) : Bool × BitVec 6 :=
  let un := a.isNan || b.isNan
  let nv := a.isSig || b.isSig || (un && decide (2 ≤ code) && decide (code ≤ 5))
  let t := match code with
    | 0 => a.eqv b
    | 1 => un || !a.eqv b
    | 2 => !un && a.lt b
    | 3 => !un && !b.lt a
    | 4 => !un && b.lt a
    | 5 => !un && !a.lt b
    | 6 => un
    | _ => !un
  (t, if nv then flagNV else 0)

/-- The class bit of a pattern (R129). -/
def classF (f : FFmt) (x : Nat) : Nat :=
  match decodeF f x with
  | .nan true => 8
  | .nan false => 9
  | .inf true => 0
  | .inf false => 7
  | .fin neg m _ =>
    if m = 0 then (if neg then 3 else 4)
    else if isSubnormal f x then (if neg then 2 else 5)
    else (if neg then 1 else 6)

/-! ## Conversions (R59) -/

/-- Whether a conversion or operation to a type saturates, by its code (R54). -/
def saturates (t : Ty) (code : Nat) : Bool :=
  match code with
  | 1 => true
  | 2 => false
  | _ => t == .f8e4 || t == .f8e5 || t == .f4e2

/-- A floating-point value to a format (R59). -/
def convF (f : FFmt) (md : FMode) (x : FVal) : FRes :=
  match x with
  | .nan s => if f.kind = .e2m1 then ⟨0, flagNV, false⟩ else nanRes f (if s then flagNV else 0)
  | .inf n =>
    if f.hasInf then FRes.of (f.signBit n + f.infBits)
    else if md.sat then ⟨f.signBit n + f.largest, flagSAT ||| flagNX, false⟩
    else nanRes f flagNV
  | .fin n m e => if m = 0 then FRes.of (f.signBit n) else roundTo f md n m e

/-- The bounds of an integer type. -/
def Ty.lo (t : Ty) : Int := if t.isSigned then -(2 ^ (t.width - 1) : Int) else 0
def Ty.hi (t : Ty) : Int := if t.isSigned then 2 ^ (t.width - 1) - 1 else 2 ^ t.width - 1

/-- A floating-point value to an integer type (R59): the integer and the flags. -/
def toIntF (t : Ty) (rnd : Nat) (x : FVal) : Int × BitVec 6 :=
  match x with
  | .nan _ => (0, flagNV)
  | .inf n => (if n then t.lo else t.hi, flagNV)
  | .fin n m e =>
    let sh := (-e).toNat
    let n0 := if 0 ≤ e then m * 2 ^ e.toNat else m / 2 ^ sh
    let rem := if 0 ≤ e then 0 else m % 2 ^ sh
    let k : Int := ((if roundsUp rnd n n0 rem sh then n0 + 1 else n0 : Nat) : Int)
    let v := if n then -k else k
    if v < t.lo ∨ t.hi < v then (if n then t.lo else t.hi, flagNV)
    else (v, if rem = 0 then 0 else flagNX)

/-- The integer of a pattern of an integer type (R51). -/
def intOf (t : Ty) (x : Nat) : Int :=
  if t.isSigned then (BitVec.ofNat t.width x).toInt else ((x % 2 ^ t.width : Nat) : Int)

/-- An integer to a format (R59). -/
def ofIntF (f : FFmt) (md : FMode) (v : Int) : FRes :=
  if v = 0 then FRes.of 0 else roundTo f md (decide (v < 0)) v.natAbs 0

/-- The pattern of an integer in w bits. -/
def wrapInt (w : Nat) (v : Int) : Nat := (v % (2 ^ w : Int)).toNat

/-! ## The modes of an operation (R54, R80) -/

/-- The rounding, saturation and flush of an operation's `MOD`; without one all are 0. -/
def modeOf (o : Op) (target : Ty) : FMode :=
  match o.pfx with
  | .mod rnd sat fl => ⟨rnd.toNat, saturates target sat.toNat, fl⟩
  | _ => ⟨0, saturates target 0, false⟩

/-- The flush bit of an operation. -/
def flushOf (o : Op) : Bool := match o.pfx with | .mod _ _ fl => fl | _ => false

/-- x + y in one format under `.rn`, non-saturating, no flush (R154, R155). -/
def faddRn (t : Ty) (x y : Nat) : Nat :=
  (sumF (fmtOf t) modeRn [decodeF (fmtOf t) x, decodeF (fmtOf t) y]).bits

end Sys2Proof.Machine
end

