-- ==== Sys2Proof/Machine/MatFmt.lean ====
section
/-! DEFINITION. The matrix formats that `MFMT` permits (R192, R193), the shapes and spans of steps (R194 to R197), and the
operand guard (R202). -/

namespace Sys2Proof.Machine

open Sys2Proof

/-- The A or B format of an `MFMT` value; code 0 means `.f16` (R192). -/
def mfTy (code : Nat) : Option Ty := if code = 0 then some .f16 else tyOfCode code

/-- A permitted pair of formats (R193): depth granule, rate R, whether it is sparse-capable, tile width. -/
structure MPair where
  granule : Nat
  rate : Nat
  sparse : Bool
  nw : Nat
  deriving DecidableEq, Repr

/-- The pairs of R193. -/
def mPair : Ty → Ty → Option MPair
  | .f64, .f64 => some ⟨2, 64, false, 8⟩
  | .f32, .f32 => some ⟨4, 256, false, 16⟩
  | .f16, .f16 => some ⟨8, 1024, true, 16⟩
  | .bf16, .bf16 => some ⟨8, 1024, true, 16⟩
  | .f8e4, .f8e4 | .f8e4, .f8e5 | .f8e5, .f8e4 | .f8e5, .f8e5 => some ⟨16, 2048, true, 16⟩
  | .i8, .i8 | .i8, .n8 | .n8, .i8 | .n8, .n8 => some ⟨16, 2048, false, 16⟩
  | .f4e2, .f4e2 => some ⟨32, 4096, true, 16⟩
  | _, _ => none

/-- A decoded `MFMT` (R192). -/
structure MFmt where
  ta : Ty
  tb : Ty
  pair : MPair
  sp : Nat
  scm : Nat
  ftz : Bool
  deriving DecidableEq, Repr

/-- The accumulator code that a pair implies (R192, R193). -/
def accCode : Ty → Nat
  | .f64 => 3
  | .i8 | .n8 => 2
  | _ => 1

/-- Decode an `MFMT` value; a reserved value has no format (R192, R193). -/
def decodeMfmt (w : Word) : Option MFmt :=
  if Word.bits w 15 49 ≠ 0 then none
  else match mfTy (Word.bits w 0 4), mfTy (Word.bits w 4 4) with
    | some ta, some tb =>
      match mPair ta tb with
      | none => none
      | some p =>
        let acct := Word.bits w 8 2
        let sp := Word.bits w 10 2
        let scm := Word.bits w 12 2
        if acct ≠ 0 ∧ acct ≠ accCode ta then none
        else if sp = 3 ∨ (sp ≠ 0 ∧ !p.sparse) then none
        else if (ta = .f4e2 ∧ scm ≠ 1 ∧ scm ≠ 2) ∨ (ta ≠ .f4e2 ∧ scm ≠ 0) then none
        else some { ta := ta, tb := tb, pair := p, sp := sp, scm := scm, ftz := w.getLsbD 14 }
    | _, _ => none

/-- The format of a permitted value; the reset format for any other. -/
def mfmtOf (w : Word) : MFmt :=
  (decodeMfmt w).getD { ta := .f16, tb := .f16, pair := ⟨8, 1024, true, 16⟩, sp := 0, scm := 0, ftz := false }

/-- The bytes of n elements of a type (R50, R195). -/
def elemBytes (t : Ty) (n : Nat) : Nat := (n * t.width + 7) / 8

/-- The span of one operand of a step (R195 to R197): rows, stride in doublewords, K, whether compressed, the type, and
the number of band scales. -/
def operandSpan (t : Ty) (rows stride k : Nat) (compressed : Bool) (scm bands : Nat) : Nat :=
  let row := if compressed then elemBytes t (k / 2) + (k / 4 + 1) / 2 else elemBytes t k
  let values := 8 * stride * (rows - 1) + row
  if t = .f4e2 then
    max values (8 * stride * rows + rows * (k / 8) + (if scm = 1 then 2 * bands else 0))
  else values

/-- The geometry of a step (R195). -/
def geomK (g : Word) : Nat := Word.bits g 0 16
def geomSA (g : Word) : Nat := Word.bits g 16 16
def geomSB (g : Word) : Nat := Word.bits g 32 16

/-- The rows and columns of a step (R194). -/
def MEntry.rows (e : MEntry) : Nat := 16 * e.mt
def MEntry.cols (e : MEntry) : Nat := (mfmtOf e.mfmt).pair.nw * e.nt

/-- The span of A. -/
def MEntry.spanA (e : MEntry) : Nat :=
  let f := mfmtOf e.mfmt
  operandSpan f.ta e.rows (geomSA e.geom) (geomK e.geom) (e.kind == .mmas && f.sp == 1) f.scm 1

/-- The span of B. -/
def MEntry.spanB (e : MEntry) : Nat :=
  let f := mfmtOf e.mfmt
  operandSpan f.tb e.cols (geomSB e.geom) (geomK e.geom) (e.kind == .mmas && f.sp == 2) f.scm ((e.cols + 63) / 64)

/-- The type of an `MCMPR` (R209). -/
def mcmprTy (code : Nat) (esz : BitVec 2) : Option Ty :=
  if code = 0 then (if esz = 1 then some .f16 else if esz = 0 then some .f8e4 else none)
  else match tyOfCode code with
    | some .f16 => if esz = 1 then some .f16 else none
    | some .bf16 => if esz = 1 then some .bf16 else none
    | some .f8e4 => if esz = 0 then some .f8e4 else none
    | some .f8e5 => if esz = 0 then some .f8e5 else none
    | some .f4e2 => if esz = 0 then some .f4e2 else none
    | _ => none

/-- The source span of an `MCMPR` (R209). -/
def mcmprSrcSpan (t : Ty) (g : Word) : Nat :=
  8 * Word.bits g 16 16 * (Word.bits g 48 16 - 1) + elemBytes t (Word.bits g 0 16)

/-- The destination span of an `MCMPR` (R197, R209). -/
def mcmprDstSpan (t : Ty) (g : Word) : Nat :=
  8 * Word.bits g 32 16 * (Word.bits g 48 16 - 1) + elemBytes t (Word.bits g 0 16 / 2) + (Word.bits g 0 16 / 4 + 1) / 2

/-- The spans that an entry reads and the guard holds (R202). -/
def MEntry.guards (e : MEntry) : List (Nat × Nat) :=
  match e.kind with
  | .mma | .mmas => (e.a, e.spanA) :: (if e.latch.isSome then [] else [(e.b, e.spanB)])
  | .mlatch => [(e.a, 2048)]
  | .mcmpr => [(e.b, mcmprSrcSpan ((mcmprTy e.ty e.esz).getD .f16) e.geom)]
  | .mzero => []

/-- The last cycle in which an entry's guard holds (R202). -/
def MEntry.guardEnd (e : MEntry) : Nat :=
  match e.kind with
  | .mlatch | .mcmpr => e.complete - 1
  | _ => e.finish

/-- Whether a span of program addresses under a mapping holds a physical byte. -/
def spanHolds (sbt : Vector Word 64) (a len ph : Nat) : Bool :=
  (List.range 64).any fun b =>
    let p := b * 32768 + ph % 32768
    decide (a ≤ p) && decide (p < a + len) && physAddr sbt p == ph

/-- Whether a physical scratchpad byte is guarded in a cycle: from the bundle after an entry enqueues to the end of its
guard (R202). -/
def guardedByte (x : Core) (cycle ph : Nat) : Bool :=
  x.qmx.any fun e =>
    decide (e.enq < cycle) && decide (cycle ≤ e.guardEnd) && e.guards.any fun g => spanHolds e.sbt g.1 g.2 ph

/-- The first guarded byte of a store (R202, R373). -/
def firstGuarded (x : Core) (cycle p : Nat) (n : Nat) : Option Nat :=
  if x.qmx.isEmpty then none
  else (List.range n).findSome? fun i => if guardedByte x cycle (physAddr x.ctl.sbt (p + i)) then some (p + i) else none

/-- When an engine's write of a span may perform: the present cycle, or the one after the guard ends (R202). -/
def guardRelease (x : Core) (sbt : Vector Word 64) (cycle p n : Nat) : Nat :=
  if x.qmx.isEmpty then cycle
  else x.qmx.foldl (fun m e =>
    if decide (e.enq < cycle) && decide (cycle ≤ e.guardEnd) && e.guards.any (fun g => (List.range n).any fun i => spanHolds e.sbt g.1 g.2 (physAddr sbt (p + i)))
    then max m (e.guardEnd + 1) else m) cycle

/-- The mesh cycles for which the operand guard holds a write of a span of a core's scratchpad that is not its threads' (R202): 0 when it
may perform. -/
def State.guardEnd (s : State) (c : CoreId) (sbt : Vector Word 64) (p n : Nat) : Nat :=
  let g := guardRelease (s.core c) sbt (s.clock c) p n
  if g ≤ s.clock c then 0 else s.meshAt c g - s.cycle

end Sys2Proof.Machine
end

