-- ==== Sys2Proof/Machine/Home.lean ====
section
/-! DEFINITION. Global addresses, homes, page tables and translation buffers, and the access that a home performs: checks,
translation, trace ring (R316, R318 to R331, R338). -/

namespace Sys2Proof.Machine

open Sys2Proof

/-- A byte of an L2 way of a core's own slice that holds a spilled block (R314). -/
def l2Key (c : CoreId) (way off : Nat) : Nat := 9 * 2 ^ 52 + c.val * 2 ^ 42 + way * 32768 + off

/-! ## Addresses (R318, R319) -/

/-- The domain of an address. -/
def domOf (a : Nat) : Nat := a / 2 ^ 52 % 16
/-- A field of an address. -/
def abits (a lo len : Nat) : Nat := a / 2 ^ lo % 2 ^ len

/-- Whether an address is well formed in its domain (R318, R319). -/
def addrOk (a : Nat) : Bool :=
  decide (a < 2 ^ 56) &&
  match domOf a with
  | 0 => abits a 21 31 == 0
  | 1 => abits a 21 21 == 0 && isCore (abits a 42 10)
  | 2 => abits a 29 13 == 0 && isCore (abits a 42 10)
  | 3 => true
  | 4 | 5 => abits a 48 4 == 0
  | 6 => decide (abits a 48 4 < 8)
  | 7 => isCore (abits a 42 10) || abits a 42 10 == 0x3FF
  | 8 => abits a 29 23 == 0
  | _ => false

/-- Whether an address lies in one of the domains of a list and is well formed (R221). -/
def addrIn (ds : List Nat) (a : Word) : Bool :=
  decide (a.toNat < 2 ^ 56) && ds.contains (domOf a.toNat) && addrOk a.toNat

/-- The page shift of a size code (R273, R321). -/
def pageShift (code : Nat) : Nat :=
  match code % 4 with
  | 0 => 16
  | 1 => 21
  | 2 => 26
  | _ => 31

/-- Fold of R321. -/
def fold10 (x : Nat) : Nat :=
  ((x ^^^ (x / 2 ^ 10)) ^^^ ((x / 2 ^ 20) ^^^ (x / 2 ^ 30)) ^^^ (x / 2 ^ 40)) % 1024

/-- The members of a 1,024-bit mask, rising. -/
def membersOf (m : BitVec 1024) : List Nat := (List.range 1024).filter fun i => m.getLsbD i

/-- Where an access is performed (R320): a scratchpad, a vault, the sump, host memory, a peer, registers. -/
inductive Home where
  | scratch (c : CoreId) (p : Nat)
  | vault (c : CoreId)
  | sump
  | host
  | peer
  | regs
  deriving DecidableEq, Repr

/-- The home of an address (R320, R321); none when the region gives the access no home. -/
def State.homeOf (s : State) (src : CoreId) (a : Nat) : Option Home :=
  match domOf a with
  | 0 => some (.scratch src (a % 2 ^ 21))
  | 1 => some (.scratch (coreOfNat (abits a 42 10)) (a % 2 ^ 21))
  | 2 => some (.vault (coreOfNat (abits a 42 10)))
  | 3 =>
    let r := vget s.term.regions (abits a 48 4)
    if !r.getLsbD 63 then none
    else
      let ms := membersOf (vget s.term.groups (Word.bits r 56 4))
      let pn := a % 2 ^ 48 / 2 ^ pageShift (Word.bits r 0 2)
      match ms[fold10 pn % ms.length]? with
      | some c => some (.vault (coreOfNat c))
      | none => none
  | 4 => some .sump
  | 5 => some .host
  | 6 => some .peer
  | 7 => some .regs
  | 8 => some (.vault src)
  | _ => none

/-- The router of a vault: the position of its owner's home (R320). -/
def State.vaultXY (s : State) (c : CoreId) : Nat × Nat := pkgXY (dieOf c) (s.homePosOf c)

/-- One way from a core to a home, without the home's own term (R397). An own vault through domain `0x8` has no network term; a moved
core's own vault lies across the mesh (R320). -/
def State.wayTo (s : State) (src : CoreId) (a : Nat) (h : Home) : Nat :=
  match h with
  | .scratch c _ => 9 + routeCost (s.xy src) (s.xy c)
  | .vault c =>
    if domOf a = 8 && decide (s.xy src = s.vaultXY c) then 0 else 9 + routeCost (s.xy src) (s.vaultXY c)
  | .sump | .regs => s.toTerminus src
  | .host => s.toTerminus src + Config.freeLatency s.free
  | .peer => s.toTerminus src + 340 + Config.freeLatency s.free

/-- The read term of a home (R397). -/
def readTerm : Home → Nat
  | .vault _ => 6
  | .sump => 70
  | _ => 0

/-! ## Page tables (R325 to R330) -/

/-- What an access does, for the checks of R329: whether it writes, whether a key-value page admits it, its kind for the trace, and whether it
has waited for its walks, so that this is their end (R330). -/
structure Acc where
  write : Bool
  kvOk : Bool
  kind : Nat
  walked : Bool
  deriving DecidableEq, Repr

def accRead : Acc := ⟨false, true, 0, false⟩
/-- A write of the copy and scatter engines, `XKVG` or the Junction. -/
def accCopy : Acc := ⟨true, true, 0, false⟩
def accAtomic : Acc := ⟨true, false, 1, false⟩
def accDecr : Acc := ⟨true, false, 2, false⟩
def accWriteBack : Acc := ⟨true, false, 3, false⟩
def accJunction : Acc := ⟨true, true, 4, false⟩
def accHost : Acc := ⟨true, false, 5, false⟩

/-- The outcome of a translation (R329): the physical offset and the leaf, refused, a fault of a kind at a level, or an entry that holds an
uncorrectable error (R514). -/
inductive Xlat where
  | ok (phys : Nat) (leaf : Word) (shift : Nat)
  | spoilt
  | refused (level : Nat)
  | fault (kind level : Nat)
  deriving DecidableEq, Repr

/-- The spaces of translation (R326): the gallery and the vault-local space of a core, the sump and the host space. -/
inductive Space where
  | gallery (c : CoreId)
  | local_ (c : CoreId)
  | sump
  | host
  deriving DecidableEq, Repr

/-- The bytes of the store that holds a space's frames and nodes (R3): a vault, the sump; host memory's size is not given. A frame or a
node of the sump at 512 GiB or above is refused as one outside the vault is; R329 names only the vault (DESIGN CHOICE, log 92). -/
def Space.size : Space → Nat
  | .gallery _ | .local_ _ => 2 ^ 29
  | .sump => 2 ^ 39
  | .host => 2 ^ 48

/-- Whether a node of a space's table lies in its store: a vault, or the sump for the sump's and the host's tables (R326). -/
def Space.nodeOk (sp : Space) (node bytes : Nat) : Bool :=
  decide (node + bytes ≤ match sp with | .gallery _ | .local_ _ => 2 ^ 29 | _ => 2 ^ 39)

/-- Check a leaf against its place (R329 row 1): level, the space, the region's page shift in the gallery. -/
def leafOk (sp : Space) (region : Option Nat) (shift : Nat) (e : Word) : Bool :=
  let frame := Word.bits e 16 32 * 2 ^ 16
  Word.bits e 48 2 == 0 && Word.bits e 0 16 == 0 && frame % 2 ^ shift == 0 &&
  (match region with | some r => r == shift | none => true) &&
  decide (frame + 2 ^ shift ≤ sp.size) &&
  (match sp with | .gallery _ => true | _ => !e.getLsbD 59) &&
  (match sp with | .host => decide (Word.bits e 53 2 ≤ 1) | _ => decide (Word.bits e 53 2 = 0))

/-- Check a leaf against the access (R329 rows 2 to 5). -/
def leafCheck (acc : Acc) (level shift va : Nat) (e : Word) : Xlat :=
  if e.getLsbD 51 && acc.write && !acc.kvOk then .refused level
  else if !e.getLsbD 63 then .fault 0 level
  else if acc.write && !e.getLsbD 61 then .fault 1 level
  else if acc.write && e.getLsbD 52 then .fault 2 level
  else .ok (Word.bits e 16 32 * 2 ^ 16 + va % 2 ^ shift) e shift

/-- The bytes that share a cell's protection: a doubleword of a scratchpad, 32 bytes elsewhere. -/
def cellSize (key : Nat) : Nat := if key / 2 ^ 52 = 1 then 8 else 32

/-- Whether an access meets a cell with an uncorrectable error; a write that covers the whole cell does not read it (log 12). -/
def State.meetsSpoilt (s : State) (key len : Nat) (whole : Bool) : Bool :=
  s.spoilt.any fun k => decide (k < key + len) && decide (key < k + cellSize k) &&
    !(whole && decide (key ≤ k) && decide (k + cellSize k ≤ key + len))

/-- Where a doubleword of a table node stands: in the home vault, or in the sump for the sump's and the host's tables (R326). -/
def Space.nodeKey (sp : Space) (off : Nat) : Nat :=
  match sp with
  | .gallery c | .local_ c => vaultKey c off
  | .sump | .host => sumpKey off

/-- The doubleword of a table node. -/
def State.tableEntry (s : State) (sp : Space) (off : Nat) : Word :=
  let key := sp.nodeKey off
  BitVec.ofNat 64 (bytesToNat ((List.range 8).map fun i => Memory.get s.mem (key + i)))

/-- Walk the levels from a node (R326, R329): each level its number, the lowest index bit, the index width, and the
alignment of the next node. Row 1 judges every entry before row 3 looks at `V` (log 5). Answers the outcome and the entries read. -/
def State.walk (s : State) (sp : Space) (region : Option Nat) (acc : Acc) (va : Nat) :
    List (Nat × Nat × Nat × Nat) → Nat → Nat → Xlat × Nat
  | [], _, n => (.refused 4, n)
  | (lvl, lo, len, al) :: rest, node, n =>
    let e := s.tableEntry sp (node + 8 * abits va lo len)
    if s.meetsSpoilt (sp.nodeKey (node + 8 * abits va lo len)) 8 false then (.spoilt, n + 1)
    else if e.getLsbD 62 then
      if lvl = 0 || !leafOk sp region lo e then (.refused lvl, n + 1)
      else (leafCheck acc lvl lo va e, n + 1)
    else if lvl = 4 || Word.bits e 48 14 ≠ 0 || Word.bits e 0 8 ≠ 0 || (Word.bits e 8 40 * 256) % al ≠ 0 ||
        !sp.nodeOk (Word.bits e 8 40 * 256) al then
      (.refused lvl, n + 1)
    else if !e.getLsbD 63 then (.fault 0 lvl, n + 1)
    else State.walk s sp region acc va rest (Word.bits e 8 40 * 256) (n + 1)

/-- The levels of R326. -/
def levelsFromL0 : List (Nat × Nat × Nat × Nat) :=
  [(0, 39, 9, 2048), (1, 31, 8, 256), (2, 26, 5, 256), (3, 21, 5, 256), (4, 16, 5, 256)]
def levelsFromL2 : List (Nat × Nat × Nat × Nat) := [(2, 26, 5, 256), (3, 21, 5, 256), (4, 16, 5, 256)]

/-- The root register of a space (R327). -/
def State.rootOf (s : State) : Space → Word
  | .gallery c => (s.core c).ctl.groot
  | .local_ c => (s.core c).ctl.vlroot
  | .sump => s.term.sroot
  | .host => s.term.hroot

/-- The number of a space in translation buffers. -/
def Space.num : Space → Nat
  | .gallery _ => 3
  | .local_ _ => 2
  | .sump => 4
  | .host => 5

/-- The translation buffer of a space's home (R325). -/
def State.tbOf (s : State) : Space → List TbEnt
  | .gallery c | .local_ c => (s.core c).tb
  | _ => s.term.tb
def State.setTb (s : State) (sp : Space) (l : List TbEnt) : State :=
  match sp with
  | .gallery c | .local_ c => s.modCore c fun x => { x with tb := l }
  | _ => s.modTerm fun t => { t with tb := l }

/-- The walks of a space's home that end without a leaf, while they run (R330). -/
def State.walksOf (s : State) : Space → List Walk
  | .gallery c | .local_ c => (s.core c).walks
  | _ => s.term.walks
def State.setWalks (s : State) (sp : Space) (l : List Walk) : State :=
  match sp with
  | .gallery c | .local_ c => s.modCore c fun x => { x with walks := l }
  | _ => s.modTerm fun t => { t with walks := l }

/-- The level of a leaf of a page shift (R326). -/
def levelOfShift (shift : Nat) : Nat := match shift with | 31 => 1 | 26 => 2 | 21 => 3 | _ => 4

/-- Translate a virtual address of a space (R325, R329, R330): the outcome, the state with the buffer brought up to date, and how long the
walk of the page still runs, be it this access's or one that another access began; an access that has waited for its walks waits no more.
A held leaf is checked like one that a walk reads. `region` is the page shift of a gallery region and `tag` its number. -/
def State.translate (s : State) (sp : Space) (region : Option Nat) (tag : Nat) (acc : Acc) (va : Nat) : Xlat × State × Nat :=
  let dom := sp.num + 16 * tag
  let hit := (s.tbOf sp).find? fun t => t.dom == dom && t.base == va / 2 ^ t.shift * 2 ^ t.shift
  let left := fun (ends : Nat) => if acc.walked then 0 else ends - s.cycle
  match hit with
  | some t =>
    let s1 := s.setTb sp (t :: (s.tbOf sp).erase t)
    let l := levelOfShift t.shift
    (if leafOk sp region t.shift t.leaf then leafCheck acc l t.shift va t.leaf else .refused l, s1, left t.readyAt)
  | none =>
    let root := s.rootOf sp
    let lvls := match sp with | .local_ _ => levelsFromL2 | _ => levelsFromL0
    let top := match sp with | .local_ _ => 2 | _ => 0
    let node := Word.bits root 8 40 * 256
    let al := match sp with | .local_ _ => 256 | _ => 4096
    if !root.getLsbD 63 then (.fault 0 top, s, 0)
    else if node % al ≠ 0 || !sp.nodeOk node al then (.refused top, s, 0)
    else
      let r := s.walk sp region acc va lvls node 0
      let on := (s.walksOf sp).filter fun w => decide (s.cycle ≤ w.ends)
      let other := on.find? fun w => w.dom == dom && w.page == va / 65536
      let ends := match other with | some w => w.ends | none => if acc.walked then s.cycle else s.cycle + 24 * r.2
      match r.1 with
      | .ok p leaf sh =>
        let e : TbEnt := { dom := dom, base := va / 2 ^ sh * 2 ^ sh, shift := sh, leaf := leaf, readyAt := ends }
        (.ok p leaf sh, s.setTb sp ((e :: s.tbOf sp).take 256), left ends)
      | x => (x, s.setWalks sp (if other.isSome || acc.walked then on else { dom := dom, page := va / 65536, ends := ends } :: on), left ends)

/-! ## Cells with an uncorrectable error (R514) -/

/-- A write makes the cells that it covers good again. -/
def State.mend (s : State) (key len : Nat) : State :=
  if s.spoilt.isEmpty then s
  else { s with spoilt := s.spoilt.filter fun k => !(decide (key ≤ k) && decide (k + cellSize k ≤ key + len)) }

/-- The same for a run of program addresses, block by block. -/
def State.progSpoilt (s : State) (c : CoreId) (sbt : Vector Word 64) (p len : Nat) (whole : Bool) : Bool :=
  if s.spoilt.isEmpty then false
  else (List.range ((p % 32768 + len + 32767) / 32768)).any fun i =>
    let lo := if i = 0 then p else (p / 32768 + i) * 32768
    s.meetsSpoilt (progKey sbt c lo) (min (p + len) ((p / 32768 + i + 1) * 32768) - lo) whole
def State.mendProg (s : State) (c : CoreId) (sbt : Vector Word 64) (p len : Nat) : State :=
  if s.spoilt.isEmpty then s
  else (List.range ((p % 32768 + len + 32767) / 32768)).foldl (fun s i =>
    let lo := if i = 0 then p else (p / 32768 + i) * 32768
    s.mend (progKey sbt c lo) (min (p + len) ((p / 32768 + i + 1) * 32768) - lo)) s

/-! ## An access at its home -/

/-- The answer of a home for one address: a run of physical bytes may follow under `leaf`, or of a scratchpad's program bytes under a
block table; an error; a refusal that sends its record; a fault (R329, R332). -/
inductive Answer where
  | at_ (key : Nat) (leaf : Word)
  | scratch (c : CoreId) (p : Nat) (sbt : Vector Word 64)
  | error
  | refused (home : Nat) (level : Nat)
  | fault (home : Nat) (kind level : Nat)
  deriving DecidableEq, Repr

/-- The place of an access, unless it meets an uncorrectable error. -/
def State.placeOr (s : State) (key len : Nat) (whole : Bool) (leaf : Word) : Answer :=
  if s.meetsSpoilt key len whole then .error else .at_ key leaf

/-! ## The L2 slices (R322) -/

/-- The ways of a set that a slice may use: those not withdrawn (R314, R322). -/
def Core.l2Ways (x : Core) : List Nat := (List.range 16).filter fun w => !x.l2Out.getLsbD w

/-- Cache a line in a slice: it stands already, or takes a free way of its set, or else a way whose line leaves; which one, the spec does
not say (a free value, log 93). With every way withdrawn it is not cached. -/
def State.cacheLine (s : State) (c : CoreId) (line set : Nat) : State :=
  let x := s.core c
  if x.l2.any fun l => l.line == line then s
  else match x.l2Ways with
  | [] => s
  | ws =>
    let used := (x.l2.filter fun l => l.set == set).map L2Line.way
    match ws.find? fun w => !used.contains w with
    | some w => s.modCore c fun x => { x with l2 := { line := line, set := set, way := w, dirty := 0 } :: x.l2 }
    | none =>
      let w := (ws[Config.freeWay s.free % ws.length]?).getD 0
      (s.modCore c fun x => { x with
        l2 := { line := line, set := set, way := w, dirty := 0 } :: x.l2.filter fun l => !(l.set == set && l.way == w) }).tickFree

/-- The slice and the set of a vault byte's line under its leaf (R322): the slice of the frame's core or, with `LH` = 1, of a member of the
group that the leaf names; none for a page that is not cached. -/
def State.sliceOf (s : State) (key off : Nat) (leaf : Word) : Option (CoreId × Nat) :=
  if key / 2 ^ 52 ≠ 2 || !leaf.getLsbD 60 then none
  else if leaf.getLsbD 59 then
    let ms := membersOf (vget s.term.groups (Word.bits leaf 55 4))
    (ms[fold10 (off / 128) % ms.length]?).map fun c => (coreOfNat c, off / 128 % 256)
  else some (coreOfNat (abits key 42 10), key % 2 ^ 42 / 128 % 256)

/-- An access of `len` bytes passes through its lines' slices (R322). -/
def State.throughL2 (s : State) (key off len : Nat) (leaf : Word) : State :=
  (List.range ((key % 128 + len + 127) / 128)).foldl (fun s i =>
    match s.sliceOf (key + 128 * i) (off + 128 * i) leaf with
    | some (c, set) => s.cacheLine c (key / 128 + i) set
    | none => s) s

/-- Written bytes are dirty in the slice that caches their line (R322). -/
def State.dirtyL2 (s : State) (key len : Nat) (leaf : Word) : State :=
  if key / 2 ^ 52 ≠ 2 || !leaf.getLsbD 60 then s
  else
    { s with cores := s.cores.map fun x => if x.l2.isEmpty then x else
      { x with l2 := x.l2.map fun l =>
          if key / 128 ≤ l.line ∧ l.line ≤ (key + len - 1) / 128 ∧ 0 < len then
            let lo := max key (128 * l.line) - 128 * l.line
            let hi := min (key + len) (128 * l.line + 128) - 128 * l.line
            { l with dirty := l.dirty ||| (((1#128 <<< (hi - lo)) - 1) <<< lo) }
          else l } }

/-- A way is withdrawn from caching: its lines leave, their dirty bytes written back (R314). -/
def Core.withdrawWay (x : Core) (w : Nat) : Core :=
  { x with l2 := x.l2.filter fun l => l.way != w, l2Out := x.l2Out ||| (1#16 <<< w) }
/-- A way is returned to caching (R314). -/
def Core.returnWay (x : Core) (w : Nat) : Core := { x with l2Out := x.l2Out &&& ~~~(1#16 <<< w) }

/-- Check and translate one address at its home: the answer, and how long its walk still runs. `rd` and `wr` say what a scratchpad's protection must permit (R316). The
span of `len` bytes must not cross a 64 KiB boundary. The scratchpad of domain `0x0` was checked under the thread's own bits at issue. -/
def State.answer (s : State) (src : CoreId) (a len : Nat) (rd : Bool) (acc : Acc) : Answer × State × Nat :=
  match s.homeOf src a with
  | none => (.error, s, 0)
  | some h =>
    match h with
    | .scratch c p =>
      let ctl := (s.core c).ctl
      let bad := decide (2 ^ 21 < p + len) || (List.range ((p % 4096 + len + 4095) / 4096)).any fun i =>
        let q := if i = 0 then p else (p / 4096 + i) * 4096
        (blockSub ctl.sbt q).isSome || (domOf a != 0 && !s.permitsRemote c src rd acc.write q)
      let spoilt := s.progSpoilt c ctl.sbt p len (acc.write && !rd)
      (if bad || spoilt then .error else .scratch c p ctl.sbt, s, 0)
    | .vault c =>
      let r := if domOf a = 3 then
          let reg := vget s.term.regions (abits a 48 4)
          s.translate (.gallery c) (some (pageShift (Word.bits reg 0 2))) (abits a 48 4) acc (a % 2 ^ 48)
        else s.translate (.local_ c) none 0 acc (a % 2 ^ 29)
      match r.1 with
      | .ok p leaf _ =>
        (r.2.1.placeOr (vaultKey c p) len (acc.write && !rd) leaf, r.2.1.throughL2 (vaultKey c p) (a % 2 ^ 48) len leaf, r.2.2)
      | .spoilt => (.error, r.2.1, r.2.2)
      | .refused l => (.refused c.val l, r.2.1, r.2.2)
      | .fault k l => (.fault c.val k l, r.2.1, r.2.2)
    | .sump =>
      let r := s.translate .sump none 0 acc (a % 2 ^ 48)
      match r.1 with
      | .ok p leaf _ => (r.2.1.placeOr (sumpKey p) len (acc.write && !rd) leaf, r.2.1, r.2.2)
      | .spoilt => (.error, r.2.1, r.2.2)
      | .refused l => (.refused 0x3FF l, r.2.1, r.2.2)
      | .fault k l => (.fault 0x3FF k l, r.2.1, r.2.2)
    | .host =>
      let r := s.translate .host none 0 acc (a % 2 ^ 48)
      match r.1 with
      | .ok p leaf _ => (r.2.1.placeOr (hostKey p) len (acc.write && !rd) leaf, r.2.1, r.2.2)
      | .spoilt => (.error, r.2.1, r.2.2)
      | .refused l => (.refused 0x3FF l, r.2.1, r.2.2)
      | .fault k l => (.fault 0x3FF k l, r.2.1, r.2.2)
    | .peer => (.at_ (peerKey (a % 2 ^ 52)) 0, s, 0)
    | .regs => (.error, s, 0)

/-- The place some bytes further in an answered run. -/
def Answer.plus (w : Answer) (i : Nat) : Answer :=
  match w with
  | .at_ k l => .at_ (k + i) l
  | .scratch c p sbt => .scratch c (p + i) sbt
  | x => x

/-- A place whose writes are not traced. -/
def Answer.untraced : Answer → Answer
  | .at_ k l => .at_ k (l &&& ~~~(1#64 <<< 50))
  | w => w

/-- n bytes from a physical key. -/
def State.readKey (s : State) (key : Nat) : Nat → List Byte
  | 0 => []
  | n + 1 => Memory.get s.mem key :: State.readKey s (key + 1) n

/-- Bytes to a physical key. -/
def State.writeKey (s : State) (key : Nat) : List Byte → State
  | [] => s
  | b :: bs => State.writeKey { s with mem := Memory.set s.mem key b } (key + 1) bs

/-- Append the trace entries of a write: one per 128-byte line it touches (R338, R339). -/
def State.trace (s : State) (c : CoreId) (src : Nat) (thr kind a len off : Nat) : State :=
  (List.range ((off % 128 + len + 127) / 128)).foldl (fun s i =>
    let ctl := (s.core c).ctl
    if !ctl.trb.getLsbD 63 then s
    else
      let first := if i = 0 then 0 else 128 * i - off % 128
      let last := min len (128 * (i + 1) - off % 128)
      let seq := ctl.trSeq.toNat + 1
      let idx := ctl.trhd.toNat % 4096
      let base := vaultKey c (ctl.trb.toNat % 2 ^ 29 / 2 ^ 17 * 2 ^ 17 + 32 * idx)
      let bytes := natToBytes 8 s.tsc.toNat ++ natToBytes 8 ((a + first) % 2 ^ 56 + (last - first - 1) * 2 ^ 56) ++
        natToBytes 8 (kind * 2 ^ 16 + thr * 2 ^ 10 + src) ++ natToBytes 8 seq
      (s.writeKey base bytes).modCtl c fun k =>
        { k with trSeq := BitVec.ofNat 64 seq, trhd := BitVec.ofNat 64 ((idx + 1) % 4096) }) s

/-- Who performs a write, for the trace (R339): source core, thread code, kind. -/
structure Tracer where
  src : Nat
  thr : Nat
  kind : Nat
  deriving DecidableEq, Repr

/-- Perform a write at an answered place, tracing it if its page is traced. Scratchpad writes set full-empty bits (R148)
unless `fe` is false. -/
def State.writeAt (s : State) (w : Answer) (fe : Bool) (tr : Tracer) (a : Nat) (bs : List Byte) : State :=
  match w with
  | .scratch c p sbt => (s.writeProg c sbt fe p bs).mendProg c sbt p bs.length
  | .at_ key leaf =>
    let s1 := ((s.writeKey key bs).mend key bs.length).dirtyL2 key bs.length leaf
    if leaf.getLsbD 50 && decide (2 * 2 ^ 52 ≤ key) && decide (key < 3 * 2 ^ 52) then
      s1.trace (coreOfNat (abits key 42 10)) tr.src tr.thr tr.kind a bs.length (key % 2 ^ 42)
    else s1
  | _ => s

/-- Read at an answered place. -/
def State.readAt (s : State) (w : Answer) (n : Nat) : List Byte :=
  match w with
  | .scratch c p sbt => s.readProg c sbt p n
  | .at_ key _ => s.readKey key n
  | _ => []

/-! ## SERR records (R515) -/

/-- A SERR record: detecting core, unit code, address, count of corrected errors. -/
def serrRecord (core unit : Nat) (addr stamp : Word) (count : BitVec 32) : Rec64 :=
  #v[BitVec.ofNat 64 (core * 2 ^ 16 + unit * 2 ^ 8 + 0x25), addr, stamp, count.setWidth 64, 0, 0, 0, 0]

/-- A core's SERR record goes to its die's supervisor (R514, R515). -/
def State.sendSerr (s : State) (c : CoreId) (unit : Nat) (addr : Nat) : State :=
  s.sendRecord c (dieOf c) (serrRecord c.val unit (BitVec.ofNat 64 (addr % 2 ^ 56)) s.tsc (vget (s.core c).corrected (unit - 1)))

/-! ## Accesses that cannot be served now (R263, R472, R473, R511) -/

/-- Whether a checkpoint has frozen a core: its network interface holds what would write its scratchpad (R263). -/
def Core.still (x : Core) : Bool := x.ckpt.any fun p => p.frozen

/-- Whether a core's barrel is frozen, by a checkpoint or by a migration (R263, R511). -/
def Core.frozen (x : Core) : Bool := x.move.isSome || x.still

/-- The tile whose edge a home's requests pass: for a vault that of its owner's home position (R320). -/
def State.homeTile (s : State) (h : Home) : Option (Fin 196) :=
  match h with
  | .scratch c _ => some (s.tileOf c)
  | .vault c =>
    let p := s.homePosOf c
    some ⟨((dieOf c).val * 49 + (p / 14 / 2) * 7 + (p % 14) / 2) % 196, Nat.mod_lt _ (by decide)⟩
  | _ => none

/-- Whether the step in progress is part of an access that its home's port has taken. -/
def State.accepted (s : State) (what : Instr) : Bool :=
  s.evt.k != 0 && match what with
    | .ratomAtHome | .decrAtHome | .fullEmptyRemoteArrival | .remoteAccessAtHome | .scavengerCacheFill | .scavengerCacheWritebackAck
    | .hostMemoryAccess => true
    | _ => false

/-- Whether a tile's edge turns the step in progress away: it has no supply, or its edge is closed and has not accepted the access (R472). -/
def State.edgeShut (s : State) (t : Fin 196) (what : Instr) : Bool :=
  match (s.tile t).supply with
  | .on => false
  | .closing => !s.accepted what
  | _ => true

/-- The step in progress parks at the edge of a tile without supply, and wakes it; a full edge refuses it, and it comes again 16
cycles later (R473). -/
def State.atEdge (s : State) (t : Fin 196) (what : Instr) : State :=
  let x := s.tile t
  if 64 ≤ x.edge.length then s.after 16 2 what s.evt
  else
    let s := s.modTile t fun x => { x with edge := x.edge ++ [{ due := s.cycle, prio := 2, what := what, arg := s.evt }] }
    if x.supply == .gated && x.edge.isEmpty then s.after 0 2 .tileWake { s.evt with n := t.val, k := 0 } else s

/-- The step in progress is held at a core's network interface (R263, R511). -/
def State.holdAt (s : State) (c : CoreId) (what : Instr) : State :=
  s.modCore c fun x => { x with held := x.held ++ [{ due := s.cycle, prio := 2, what := what, arg := s.evt }] }

/-- A step that reaches a core's network interface is put off while its tile has no supply, while the identity migrates, and, if it
writes the scratchpad, while a checkpoint has frozen the core. -/
def State.putOff (s : State) (c : CoreId) (writes : Bool) (what : Instr) : Option State :=
  let t := s.tileOf c
  if s.edgeShut t what then some (s.atEdge t what)
  else if ((s.core c).move.any fun m => m.held) || (writes && (s.core c).still) then some (s.holdAt c what)
  else none

/-- The same at the home of an address; a vault's requests pass only its tile's edge. -/
def State.putOffHome (s : State) (h : Home) (writes : Bool) (what : Instr) : Option State :=
  match h with
  | .scratch c _ => s.putOff c writes what
  | h => match s.homeTile h with
    | some t => if s.edgeShut t what then some (s.atEdge t what) else none
    | none => none

/-- The first of several homes at which the step in progress is put off. -/
def State.putOffAny (s : State) (hs : List Home) (writes : Bool) (what : Instr) : Option State :=
  hs.findSome? fun h => s.putOffHome h writes what

/-! ## Home ports (R396, R397) -/

/-- A home port: a core's, that of the vault of an identity which has moved (R320), or the Terminus die's. -/
inductive PortId where
  | core (c : CoreId)
  | vault (c : CoreId)
  | terminus
  deriving DecidableEq, Repr

/-- Whether an identity has moved away from its vault (R320, R511). -/
def State.moved (s : State) (c : CoreId) : Bool := s.posOf c != s.homePosOf c

/-- The port that serves the vault of an identity. -/
def State.vaultPort (s : State) (c : CoreId) : PortId := if s.moved c then .vault c else .core c

/-- The home port that serves a home; a peer's is on its own module. -/
def State.portOf (s : State) : Home → Option PortId
  | .scratch c _ => some (.core c)
  | .vault c => some (s.vaultPort c)
  | .sump | .host | .regs => some .terminus
  | .peer => none

/-- The core whose network interface a home answers through; the Terminus die, a peer and the vault of an identity that has moved have
interfaces on which nothing waits (log 122). -/
def State.faceOf (s : State) : Home → Option CoreId
  | .scratch c _ => some c
  | .vault c => if s.moved c then none else some c
  | _ => none

/-- A home sends packets of one class (R396). -/
def State.sendFace (s : State) (face : Option CoreId) (prim : Bool) (n way prio : Nat) (what : Instr) (arg : EvArg) : State :=
  match face with
  | some d => s.sendClass prim d n way prio what arg
  | none => s.after way prio what arg

/-- Change a die. -/
def State.modDie (s : State) (d : Fin 4) (f : Die → Die) : State := { s with dies := s.dies.set d.val (f s.dies[d.val]) }

def State.portAt (s : State) : PortId → HomePort
  | .core c => (s.core c).port
  | .vault c => (s.core c).vport
  | .terminus => s.term.port
def State.setPort (s : State) (p : PortId) (x : HomePort) : State :=
  match p with
  | .core c => s.modCore c fun k => { k with port := x }
  | .vault c => s.modCore c fun k => { k with vport := x }
  | .terminus => s.modTerm fun t => { t with port := x }

/-- The step in which a home port begins its next request: `id` 0 is a core's, 1 the Terminus die's, 2 a vault's. -/
def State.portStep (s : State) (p : PortId) (t : Nat) : State :=
  let a : CoreId × Nat := match p with | .core c => (c, 0) | .terminus => (0, 1) | .vault c => (c, 2)
  s.after (t - s.cycle) 2 .remoteAccessAtHome { EvArg.ofCore a.1 with k := 2, id := a.2 }
/-- The port of such a step. -/
def portOfStep (c : CoreId) (id : Nat) : PortId := match id with | 0 => .core c | 1 => .terminus | _ => .vault c

/-- Requests of the primary class which the model makes in one step take their places at a port (R397): each puts off by eight cycles what the
port begins next. -/
def State.takePlaces (s : State) (p : PortId) (n : Nat) : State :=
  s.setPort p { s.portAt p with free := max (s.portAt p).free s.cycle + 8 * n }

/-- An engine's request for the port of a home (R397), in the class of the thread that issued it (R396). -/
def State.portReq (s : State) (p : Pend) (term : Nat) (what : Instr) : PortReq :=
  { prim := p.thr == .prim, stamp := p.stamp, src := s.evt.core, term := term, what := what, arg := s.evt }

/-- A request reaches a home port: it waits until the port begins it, which is now if the port is free and nothing goes before it. -/
def State.arriveAt (s : State) (p : PortId) (r : PortReq) : State :=
  let x := s.portAt p
  let s := s.setPort p { x with waiting := x.waiting ++ [r] }
  if x.waiting.isEmpty then s.portStep p (max s.cycle x.free) else s

/-- Whether a waiting request goes before another (R396): primary class first, then the older stamp, then the lower core. -/
def PortReq.before (a b : PortReq) : Bool :=
  if a.prim != b.prim then a.prim
  else decide (a.stamp.toNat < b.stamp.toNat) || (a.stamp == b.stamp && decide (a.src.val < b.src.val))

/-- The request that a port begins next: of equals the one that arrived first. -/
def nextReq : List PortReq → Option PortReq
  | [] => none
  | r :: l => match nextReq l with
    | none => some r
    | some q => if q.before r then some q else some r

/-- A home port begins a request (R397): the next one no sooner than eight cycles later. The request performs after its home's term. -/
def State.beginRequest (s : State) (p : PortId) : State :=
  let x := s.portAt p
  match nextReq x.waiting with
  | none => s
  | some r =>
    if s.cycle < x.free then s.portStep p x.free else
    let rest := x.waiting.erase r
    let s := s.setPort p { waiting := rest, free := s.cycle + 8 }
    let s := s.after r.term 2 r.what { r.arg with k := 1 }
    if rest.isEmpty then s else s.portStep p (s.cycle + 8)

/-- The cycles for which an operand guard holds a network interface's write at a home (R202): 0 when it may perform. -/
def State.guardHold (s : State) (at_ : Answer) (n : Nat) : Nat :=
  match at_ with
  | .scratch h q sbt => s.guardEnd h sbt q n
  | _ => 0

/-- The bank ports that an access of a home's interface takes now (R140). -/
def State.useHome (s : State) (at_ : Answer) (n : Nat) : State :=
  match at_ with
  | .scratch h q sbt => s.useSpans h sbt s.cycle [(q, n)]
  | _ => s

/-! ## Records and notices of translation (R332, R333) -/

/-- The key of a fault: address bits [55:16] (R332). -/
def faultKey (a : Nat) : BitVec 40 := BitVec.ofNat 40 (a / 2 ^ 16)

/-- An XLATE record (R333). -/
def xlateRecord (src home level : Nat) (ref : Bool) (kind : Nat) (addr : Nat) (stamp : Word) : Rec64 :=
  #v[BitVec.ofNat 64 (src * 2 ^ 32 + home * 2 ^ 16 + level * 2 ^ 12 + (if ref then 2 ^ 11 else 0) + kind * 2 ^ 8 + 0x21),
    BitVec.ofNat 64 addr, BitVec.ofNat 64 (addr / 2 ^ 16 * 2 ^ 16), stamp, 0, 0, 0, 0]

/-- The core whose die's supervisor hears of a home: the home core, or the requester for the Terminus die (log 7). -/
def heardBy (src home : Nat) : CoreId := coreOfNat (if home = 0x3FF then src else home)

/-- A refused translation sends its record (R329). -/
def State.sendRefused (s : State) (src home level a : Nat) : State :=
  s.sendRecord (heardBy src home) (dieOf (heardBy src home)) (xlateRecord src home level true 7 a s.tsc)

/-- The requester's interface sends one notice per key, whatever number of its accesses wait on it, once the
fault response has reached it (R332). -/
def State.sendNotice (s : State) (c : CoreId) (id home kind level a : Nat) : State :=
  let key := faultKey a
  let x := s.core c
  let first := !(x.waitWake.any fun w => w.1 == key)
  let s := s.modCore c fun x => { x with waitWake := x.waitWake ++ [(key, id)] }
  if !first then s
  else
    let n : Notice := { key := key, src := BitVec.ofNat 10 c.val, home := BitVec.ofNat 10 home, level := BitVec.ofNat 3 level,
                        kind := BitVec.ofNat 3 kind, addr := BitVec.ofNat 56 a, stamp := s.tsc }
    let way := match s.homeOf c a with | some h => s.wayTo c a h | none => 0
    s.after (way + 1) 2 .faultNotice { EvArg.ofCore c with load := .notice ⟨(s.xy c).1, (s.xy c).2⟩ 4 n }

end Sys2Proof.Machine
end

