-- ==== Sys2Proof/Machine/Tables.lean ====
section
/-! DEFINITION. The registers of domain `0x7` (R294, R327, R338, R402, R415, R475, R486 to R490, R507, R508): how each is
read, and the writes that the table-write events and uncached stores make. -/

namespace Sys2Proof.Machine

open Sys2Proof

/-- A bit at a place in a number. -/
def flagAt (b : Bool) (pos : Nat) : Nat := if b then 2 ^ pos else 0

/-- Doubleword +8 of a task-table entry (R294). -/
def Chan.dw8 (c : Chan) : Word :=
  BitVec.ofNat 64 (flagAt c.v 63 + flagAt c.blk 62 + c.pri.toNat * 2 ^ 60 + c.gen.toNat * 2 ^ 48 + c.busy.toNat * 2 ^ 40 +
    c.nws.toNat * 2 ^ 37 + c.wsz.toNat * 2 ^ 21 + c.wsb.toNat)

/-- Slot k of a channel lies at `WSB` + 8·`WSZ`·k (R294). -/
def Chan.slotAt (c : Chan) (k : Nat) : Nat := c.wsb.toNat + 8 * c.wsz.toNat * k

/-- An entry as doubleword +8 gives it; `BUSY` and `ENTRY` are kept (R295). -/
def Chan.withDw8 (c : Chan) (w : Word) : Chan :=
  { c with v := w.getLsbD 63, blk := w.getLsbD 62, pri := w.extractLsb' 60 2, gen := w.extractLsb' 48 12,
           nws := w.extractLsb' 37 3, wsz := w.extractLsb' 21 16, wsb := w.extractLsb' 0 21 }

/-- Whether an entry with `V` = 1 may stand (R294). -/
def Chan.legal (c : Chan) : Bool :=
  !c.v || (c.wsb.toNat % 8 == 0 && decide (33 ≤ c.wsz.toNat) &&
    decide (c.slotAt (c.nws.toNat + 1) ≤ 2 ^ 21))

def Core.chan (x : Core) (n : Nat) : Chan := vget x.ttab n
def Core.setChan (x : Core) (n : Nat) (c : Chan) : Core := { x with ttab := vset x.ttab n c }

/-- Write a doubleword of a core's task table (R294, R295); none for a write that completes ERROR. -/
def State.writeTask (s : State) (c : CoreId) (off : Nat) (dw : Word) : Option State :=
  if off % 8 ≠ 0 || decide (1024 ≤ off) then none
  else
    let n := off / 16
    let e := (s.core c).chan n
    if off % 16 = 0 then
      some (s.modCore c fun x => x.setChan n { e with entry := BitVec.ofNat 64 (dw.toNat / 4 * 4), code := (s.core c).code })
    else
      let e1 := e.withDw8 dw
      if e1.legal then some (s.modCore c fun x => x.setChan n e1) else none

/-- A root register keeps `V` and `NODE` (R327). -/
def rootFields (dw : Word) : Word := BitVec.ofNat 64 (flagAt (dw.getLsbD 63) 63 + Word.bits dw 8 40 * 256)

/-- Write a doubleword of the tables of R321, R327 and R338 (R321: every copy is updated before the write completes). -/
def State.writeMap (s : State) (core off : Nat) (dw : Word) : Option State :=
  if core = 0x3FF then
    if decide (0x70000 ≤ off) && decide (off < 0x70800) && off % 8 == 0 then
      let g := (off - 0x70000) / 128
      let i := (off - 0x70000) % 128 / 8
      some (s.modTerm fun t =>
        let m := vget t.groups g
        let m1 := (m &&& ~~~((BitVec.allOnes 64).setWidth 1024 <<< (64 * i))) ||| (dw.setWidth 1024 <<< (64 * i))
        { t with groups := vset t.groups g m1 })
    else if decide (0x70800 ≤ off) && decide (off < 0x70880) && off % 8 == 0 then
      some (s.modTerm fun t =>
        { t with regions := vset t.regions ((off - 0x70800) / 8) (BitVec.ofNat 64 (flagAt (dw.getLsbD 63) 63 + Word.bits dw 56 4 * 2 ^ 56 + Word.bits dw 0 2)) })
    else if off = 0x71000 then some (s.modTerm fun t => { t with sroot := rootFields dw })
    else if off = 0x71008 then some (s.modTerm fun t => { t with hroot := rootFields dw })
    else none
  else if !isCore core then none
  else
    let c := coreOfNat core
    match off with
    | 0x20000 => some (s.modCtl c fun k =>
        { k with trb := BitVec.ofNat 64 (flagAt (dw.getLsbD 63) 63 + Word.bits dw 17 12 * 2 ^ 17) })
    | 0x20008 => some (s.modCtl c fun k => { k with trhd := BitVec.ofNat 64 (dw.toNat % 4096) })
    | 0x20010 => some (s.modCtl c fun k => { k with groot := rootFields dw })
    | 0x20018 => some (s.modCtl c fun k => { k with vlroot := rootFields dw })
    | _ => none

def State.group (s : State) (g : Nat) : Group := vget s.term.coll g
def State.setGroup (s : State) (g : Nat) (x : Group) : State :=
  s.modTerm fun t => { t with coll := vset t.coll g x }
def State.arena (s : State) (n : Nat) : Arena := vget s.term.arenas n
def State.setArena (s : State) (n : Nat) (x : Arena) : State :=
  s.modTerm fun t => { t with arenas := vset t.arenas n x }
def State.sem (s : State) (n : Nat) : Sem := vget s.term.sems n
def State.setSem (s : State) (n : Nat) (x : Sem) : State :=
  s.modTerm fun t => { t with sems := vset t.sems n x }
def portIdx : HostPort → Nat
  | .portA => 0
  | .portB => 1
def State.window (s : State) (p : HostPort) : Window := vget s.term.windows (portIdx p)
def State.modWindow (s : State) (p : HostPort) (f : Window → Window) : State :=
  s.modTerm fun t =>
    { t with windows := vset t.windows (portIdx p) (f (vget t.windows (portIdx p))) }

/-! ## The low-water mark (R429) -/

/-- The identities in service, each with its router and its die (R14, R394). -/
def State.routers (s : State) : List (CoreId × (Nat × Nat) × Fin 4) :=
  (List.finRange 4).flatMap fun d => (List.finRange 196).filterMap fun i =>
    let l := s.dies[d.val].lpt[i.val].lid.toNat
    if isCore l then some (coreOfNat l, pkgXY d i.val, d) else none

/-- The way of a core's report to the Junction. -/
def reportWay (r : CoreId × (Nat × Nat) × Fin 4) : Nat := 29 + routeCost r.2.1 (bridgeXY r.2.2)

/-- The latest report of a core that has reached the Junction: every interface reports in the cycles that are multiples of 1,024, and at
each change of its oldest incomplete `XKVG` (R429; log 106). -/
def State.latestReport (s : State) (r : CoreId × (Nat × Nat) × Fin 4) : Nat :=
  let idle := s.tscBase + (s.cycle - reportWay r) / 1024 * 1024 * 10 / 17
  match s.term.junction.reports.find? fun q => q.1 == r.1.val with
  | some (_, true, w) => w.toNat
  | some (_, false, w) => max w.toNat idle
  | none => idle

/-- `WLOW`: the least of the latest reports of all cores. -/
def State.wlow (s : State) : Word :=
  match s.routers.map s.latestReport with
  | [] => 0
  | x :: l => BitVec.ofNat 64 (l.foldl min x)

/-! ## Groups -/

/-- Whether a use has released at every member of a group. -/
def Use.over (u : Use) : Bool := (membersOf u.mask).all fun m => u.released.contains (coreOfNat m)

/-- Whether a use of a group is open: it has opened at some member and not released at every member (R402, R407). -/
def Group.busy (g : Group) : Bool := g.opens.any fun u => !u.over

/-! ## Records of the work hierarchy (R488, R489) -/

def State.table (s : State) : Level → List (Nat × WRec)
  | .launch => s.term.launches
  | .graph => s.term.graphs
  | .phase => s.term.phases
  | .job => s.term.jobs
def State.setTable (s : State) (l : Level) (t : List (Nat × WRec)) : State :=
  s.modTerm fun x => match l with
    | .launch => { x with launches := t }
    | .graph => { x with graphs := t }
    | .phase => { x with phases := t }
    | .job => { x with jobs := t }

/-- A record that is allocated (`V` = 1). -/
def State.wrec (s : State) (l : Level) (id : Nat) : Option WRec := ((s.table l).find? fun p => p.1 == id).map Prod.snd

/-- Put a record into a table kept by rising id. -/
def putRec : List (Nat × WRec) → Nat → WRec → List (Nat × WRec)
  | [], i, r => [(i, r)]
  | (k, x) :: l, i, r => if i < k then (i, r) :: (k, x) :: l else if i = k then (i, r) :: l else (k, x) :: putRec l i r

def State.setRec (s : State) (l : Level) (id : Nat) (r : WRec) : State := s.setTable l (putRec (s.table l) id r)
def State.freeRec (s : State) (l : Level) (id : Nat) : State :=
  s.setTable l ((s.table l).filter fun p => p.1 != id)

/-- The level of a record's parent (R489). -/
def Level.up : Level → Option Level
  | .launch => some .phase
  | .phase => some .graph
  | .graph => some .job
  | .job => none

/-- The level below (R492, R494). -/
def Level.down : Level → Option Level
  | .job => some .graph
  | .graph => some .phase
  | .phase => some .launch
  | .launch => none

/-- Doubleword i of a record's first 32 bytes (R489). -/
def WRec.dw (r : WRec) (launch : Bool) (i : Nat) : Word :=
  match i with
  | 0 => BitVec.ofNat 64 (2 ^ 63 + flagAt r.done 62 + flagAt r.hold 61 + flagAt r.err 60 + r.can.toNat * 2 ^ 58 +
      flagAt r.nop 57 + r.parent * 2 ^ 32 + (if launch then r.pri.toNat * 2 ^ 6 + flagAt r.capNow 5 else 0))
  | 1 => BitVec.ofNat 64 r.count
  | 2 => r.age
  | 3 => if launch then BitVec.ofNat 64 r.next else 0
  | _ => 0

/-- Read a doubleword of a record (R489); a record with `V` = 0 reads zero. -/
def State.readRec (s : State) (l : Level) (id off : Nat) : Word :=
  match s.wrec l id with
  | none => 0
  | some r =>
    if off < 0x20 then r.dw (l == .launch) (off / 8)
    else if off < 0x40 then (r.desc[off / 8 - 4]?).getD 0
    else if off < 0x48 then r.save
    else if 0x80 ≤ off then BitVec.ofNat 64 (r.cores.toNat / 2 ^ (64 * (off / 8 - 16)))
    else 0

/-! ## Reading domain `0x7` -/

/-- Read a doubleword of a core's or the Terminus die's registers; none for an offset that names nothing, whose access
completes ERROR. Reading a semaphore's `GOT` is an access of the signal box (R486), not made here. -/
def State.readReg (s : State) (core off : Nat) : Option Word :=
  if off % 8 ≠ 0 then none
  else if core = 0x3FF then
    if decide (0x30000 ≤ off) && decide (off < 0x40000) then
      let g := s.group ((off - 0x30000) / 256)
      let o := off % 256
      if o = 0 then some (BitVec.ofNat 64 (flagAt g.v 63 + flagAt g.busy 61 + g.uses.toNat))
      else if 0x80 ≤ o then some (BitVec.ofNat 64 (g.mask.toNat / 2 ^ (64 * ((o - 0x80) / 8))))
      else some 0
    else if decide (0x40000 ≤ off) && decide (off < 0x40800) then
      let i := off % 128 / 8
      if i = 12 then some s.wlow
      else some (((s.arena ((off - 0x40000) / 128)).dws.toList[i]?).getD 0)
    else if off = 0x50000 then some s.term.service.pwcap
    else if decide (0x51000 ≤ off) && decide (off < 0x51280) then
      some ((s.term.service.leakage.toList[(off - 0x51000) / 8]?).getD 0)
    else if off = 0x51400 then some (s.term.service.safeb.setWidth 64)
    else if decide (0x70000 ≤ off) && decide (off < 0x70800) then
      let m := vget s.term.groups ((off - 0x70000) / 128)
      some (BitVec.ofNat 64 (m.toNat / 2 ^ (64 * ((off - 0x70000) % 128 / 8))))
    else if decide (0x70800 ≤ off) && decide (off < 0x70880) then
      some (vget s.term.regions ((off - 0x70800) / 8))
    else if off = 0x71000 then some s.term.sroot
    else if off = 0x71008 then some s.term.hroot
    else if decide (0x100000 ≤ off) && decide (off < 0x200000) then
      some (s.readRec .launch ((off - 0x100000) / 256) (off % 256))
    else if decide (0x200000 ≤ off) && decide (off < 0x208000) then
      some (s.readRec .graph ((off - 0x200000) / 32) (off % 32))
    else if decide (0x210000 ≤ off) && decide (off < 0x212000) then
      some (s.readRec .phase ((off - 0x210000) / 32) (off % 32))
    else if decide (0x220000 ≤ off) && decide (off < 0x220800) then
      some (s.readRec .job ((off - 0x220000) / 32) (off % 32))
    else none
  else if !isCore core then none
  else
    let x := s.core (coreOfNat core)
    if decide (0x10000 ≤ off) && decide (off < 0x10400) then
      let e := x.chan ((off - 0x10000) / 16)
      some (if off % 16 = 0 then e.entry else e.dw8)
    else match off with
      | 0x20000 => some x.ctl.trb
      | 0x20008 => some x.ctl.trhd
      | 0x20010 => some x.ctl.groot
      | 0x20018 => some x.ctl.vlroot
      | _ => none

/-- Whether an offset of the Terminus die is a semaphore's (R486): its number and whether it is the doubleword +0x00. -/
def semAt (off : Nat) : Option (Nat × Bool) :=
  if decide (0x60000 ≤ off) && decide (off < 0x60200) && off % 8 == 0 then some ((off - 0x60000) / 16, off % 16 == 0)
  else none

/-- The owner code of an agent (R486). -/
def ownerCode : SemAgent → BitVec 2
  | .port .portA => 1
  | .port .portB => 2
  | .core _ => 3

/-- A read of a semaphore's +0x00 (R487): a free one is acquired. -/
def State.semRead (s : State) (g : SemAgent) (n : Nat) : Word × State :=
  let m := s.sem n
  if m.owner = 0 then
    (BitVec.ofNat 64 (2 ^ 63 + (ownerCode g).toNat), s.setSem n { owner := ownerCode g, stamp := s.tsc })
  else (m.owner.setWidth 64, s)

/-- A write of a semaphore's +0x00 (R487): only its owner's releases it. -/
def State.semRelease (s : State) (g : SemAgent) (n : Nat) : State :=
  let m := s.sem n
  if m.owner = ownerCode g then s.setSem n { owner := 0, stamp := s.tsc } else s

/-- A write of `PWCAP` (R475): only the station core's threads may make it. -/
def State.writePwcap (s : State) (c : CoreId) (dw : Word) : Option State :=
  if c = stationCore then some (s.modSvc fun v => { v with pwcap := dw }) else none

/-- An answer that a host port's access gets: 0 for a completed write, 1 for ERROR, or the doubleword read. -/
def State.answerHost (s : State) (p : HostPort) (w : Word) : State :=
  s.modWindow p fun x => { x with answers := x.answers ++ [w] }

end Sys2Proof.Machine
end

