-- ==== Sys2Proof/Machine/Cache.lean ====
section
/-! DEFINITION. The scavenger cache (R156 to R160, R324): hits, fills, write-backs, and the operations `LDC`, `STC` and
`FLUSHC` with the uncached path to domain `0x7` (R157). -/

namespace Sys2Proof.Machine

open Sys2Proof

/-- The set of a line address (R156). -/
def setOf (a : Nat) : Nat := a / 32 % 128

/-- A blank engine operation of the issuing thread. -/
def State.newPend (s : State) (c : CoreId) (t : Thr) (kind : PKind) : Pend :=
  { id := (s.core c).nextId, kind := kind, thr := t, tag := 0, x12 := 0, esz := 3, a := 0, b := 0, c := 0, ws := [], data := [], moves := [],
    sbt := s.sbt c, prot := false, issued := s.cycle, stamp := s.tsc, started := false, writing := false, performed := false, refused := [],
    retried := false, err := false, waits := [], unit := (s.prim c).task.map fun t => t.launch, bound := 0, legs := 0, mail := none }

/-- Find a line (R156). -/
def Core.line (x : Core) (a : Nat) : Option CLine := x.cache.find? fun l => l.addr == a
/-- Put a line first: it is the most recently used. -/
def Core.touchLine (x : Core) (l : CLine) : Core := { x with cache := l :: x.cache.filter fun m => m.addr != l.addr }
/-- Change a line in place. -/
def Core.mapLine (x : Core) (a : Nat) (f : CLine → CLine) : Core :=
  { x with cache := x.cache.map fun l => if l.addr == a then f l else l }

/-- A request of the cache sets out for its home, in the scavenger class (R396); one to the own vault takes `own` cycles there (R397). -/
def State.netSend (s : State) (c : CoreId) (a own : Nat) (what : Instr) (id : Nat) : State :=
  let way := match s.homeOf c a with | some h => s.wayTo c a h | none => 0
  if way = 0 then s.after own 2 what (argId c id) else s.sendLater c 1 way 2 what (argId c id)

/-- Start the write-back of a line: its dirty bytes travel and both masks clear (R156); to the own vault it takes 2 cycles (R397). A
clean line needs none. -/
def State.writeBackLine (s : State) (c : CoreId) (l : CLine) : State :=
  if l.dirty = 0 then s.modCore c fun x => x.mapLine l.addr fun m => { m with writers := 0 }
  else
    let p := { s.newPend c .prim .writeBack with
      a := BitVec.ofNat 64 l.addr, b := l.dirty.setWidth 64, c := l.writers.setWidth 64,
      data := natToBytes 32 l.data.toNat }
    let s := s.modCore c fun x =>
      { x.mapLine l.addr (fun m => { m with dirty := 0, writers := 0 }) with qnet := x.qnet ++ [p], nextId := x.nextId + 1 }
    s.netSend c l.addr 2 .scavengerCacheWritebackAck p.id

/-- Make a way free in the set of a line: the least recently used line of a full set leaves, written back if dirty
(R156, R157). -/
def State.evictFor (s : State) (c : CoreId) (line : Nat) : State :=
  let inSet := (s.core c).cache.filter fun l => setOf l.addr == setOf line
  if inSet.length < 4 then s
  else match inSet.getLast? with
    | none => s
    | some v => (s.writeBackLine c v).modCore c fun x => { x with cache := x.cache.filter fun l => l.addr != v.addr }

/-! ## Bursts (R324) -/

/-- When the flit of a line arrives after a burst's first: the burst starts with the missing line and wraps through its block. -/
def Burst.place (b : Burst) (line : Nat) : Nat := (line / 32 % 8 + 8 - b.first) % 8

/-- Bursts with flits still to arrive. -/
def TileSt.prune (x : TileSt) (now : Nat) : TileSt :=
  { x with bursts := x.bursts.filter fun b => match b.arrives with | none => true | some t => decide (now < t + 8) }

/-- Whether a miss of a core takes its line from a burst (R324): the line's flit has not arrived, the block is the same one, which through
domain `0x8` is one of the core's own vault, and the burst was not read before an acquire of the core (R348; log 108). -/
def Burst.gives (b : Burst) (c : CoreId) (x : Core) (now line : Nat) : Bool :=
  b.block == line / 256 * 256 && (domOf line != 8 || b.src == c) && (b.lines.isEmpty || decide (x.acqAt ≤ b.began)) &&
    match b.arrives with
    | none => true
    | some t => decide (now < t + b.place line)

/-- The wait of a thread for a fill of a line, for a write-back of it, or for the write-backs that its release caused: its mark in the
thread's hold. -/
def waitFill (line : Nat) : Nat := 2 * line + 1
def waitBack (line : Nat) : Nat := 2 * line + 2

/-- The threads of a core that wait for the write-backs of a release (R147, R158, R230, R232). -/
def Core.releasing (x : Core) : BitVec 8 :=
  (List.finRange 8).foldl (fun m k =>
    let h := x.scav[k.val]
    let on := match h.wait, (h.win.bind Win.op).map IssOp.instr with
      | some w, some (.flushc _) => w.info == 0
      | some _, some (.strel _) | some _, some (.fence _) | some _, some (.xdfence _) => true
      | _, _ => false
    if on then m ||| (1#8 <<< k.val) else m) 0

/-- The threads of a core that wait with a mark. -/
def Core.waiters (x : Core) (mark : Nat) : BitVec 8 :=
  (List.finRange 8).foldl (fun m k =>
    if x.scav[k.val].wait.any fun h => h.code == 0 && h.info == mark then m ||| (1#8 <<< k.val) else m) 0

/-- A request takes its line from a burst that has been read, and the flit comes when the burst does. -/
def State.sendFlit (s : State) (b : Burst) (q : CoreId × Nat) : State :=
  match b.lines.isEmpty, ((s.core q.1).qnet.find? fun p => p.id == q.2) with
  | false, some p =>
    let line := p.a.toNat
    let bs := (b.lines[line / 32 % 8]?).join
    let s := s.modCore q.1 fun x => { x with qnet := x.qnet.map fun r =>
      if r.id == p.id then { r with performed := true, data := bs.getD [], err := bs.isNone } else r }
    match b.arrives with
    | some t => s.after (t + b.place line - s.cycle) 0 .scavengerCacheFill (argId q.1 p.id)
    | none => s
  | _, _ => s

/-- Start a fill (R157, R324): the least recently used line of a full set leaves, written back if dirty. A fill of a line whose write-back
is in flight waits for it, one fill serves every thread of the core, a burst that still brings the line is used, and a new one waits for one of
the eight places of the tile's mesh port. A fill read before an acquire of the core serves only those that waited for it (R348). -/
def State.startFill (s : State) (c : CoreId) (line : Nat) : State :=
  let x := s.core c
  if x.qnet.any fun p => p.a.toNat == line && (p.kind == .writeBack || !p.writing) then s
  else
    let t := s.tileOf c
    let s := s.modTile t fun y => y.prune s.cycle
    let p := { s.newPend c .prim .fill with a := BitVec.ofNat 64 line }
    let enter := fun (s : State) =>
      (s.evictFor c line).modCore c fun x => { x with qnet := x.qnet ++ [{ p with id := x.nextId }], nextId := x.nextId + 1 }
    match (s.tile t).bursts.find? fun b => b.gives c x s.cycle line with
    | some b =>
      let s := enter s
      let q := (c, (s.core c).nextId - 1)
      let s := s.modTile t fun y => { y with bursts := y.bursts.map fun d =>
        if d.src == b.src && d.id == b.id then { d with takers := d.takers ++ [q] } else d }
      s.sendFlit b q
    | none =>
      if 8 ≤ (s.tile t).bursts.length then s
      else
        let s := enter s
        let id := (s.core c).nextId - 1
        let b : Burst := { block := line / 256 * 256, first := line / 32 % 8, src := c, id := id, began := s.cycle, arrives := none
                           lines := [], takers := [(c, id)] }
        (s.modTile t fun y => { y with bursts := y.bursts ++ [b] }).netSend c line ((s.homeOf c line).elim 0 readTerm) .scavengerCacheFill id

/-- Whether a failed access of the cache is owed to a thread (R160): the line, and the state with the debt paid. -/
def State.cacheFault (s : State) (c : CoreId) (k : Fin 8) : Option (Nat × State) :=
  let x := s.core c
  match x.cacheErr.find? fun e => e.2.getLsbD k.val with
  | none => none
  | some e => some (e.1, s.modCore c fun x =>
      { x with cacheErr := (x.cacheErr.erase e) ++
          (let m := e.2 &&& ~~~(1#8 <<< k.val); if m = 0 then [] else [(e.1, m)]) })

/-- The `PROT` of a failed fill, write-back or uncached access (R160): `INFO` holds the address in bits [55:0] and the completion status,
ERROR, in [57:56] (log 94). -/
def State.raiseFill (s : State) (a : Nat) : State := s.raise codePROT 8 (BitVec.ofNat 64 (2 * 2 ^ 56 + a % 2 ^ 56)) 0

/-- Write back every line whose writer mask holds a thread (R147, R158, R230): the state, and whether the thread must wait
for an acknowledgement. -/
def State.releaseLines (s : State) (c : CoreId) (k : Fin 8) : State × Bool :=
  let ls := (s.core c).cache.filter fun l => l.writers.getLsbD k.val
  let s1 := ls.foldl (fun s l => s.writeBackLine c l) s
  (s1, (s1.core c).qnet.any fun p => p.kind == .writeBack && p.c.getLsbD k.val)

/-- Invalidate every clean line (R147, R158). A line that has been read at its home and is still on its way serves only the threads that
wait for it now (R348). -/
def State.invalidateClean (s : State) (c : CoreId) : State :=
  s.modCore c fun x =>
    { x with cache := x.cache.filter fun l => l.dirty != 0 || l.readers.isSome
             acqAt := s.cycle
             qnet := x.qnet.map fun p => if p.kind == .fill && p.performed && !p.writing then
               { p with writing := true, c := (x.waiters (waitFill p.a.toNat)).setWidth 64 } else p }

/-- A release at `.til` or wider of a scavenger: done, or the thread waits, or a write-back failed (R147, R160). Its turns count in `RES.MEM`
where `mem` says so, and code 0 stands for a wait without a bound. -/
def State.withRelease (s : State) (k : Fin 8) (mem : Bool) (bound : Nat) (code : BitVec 8) (f : State → State) : State :=
  let c := s.iss.core
  match s.cacheFault c k with
  | some (line, s1) => s1.raiseFill line
  | none =>
    let r := s.releaseLines c k
    if r.2 then r.1.block mem bound code (if code = 0 then 0 else 7) else f r.1

/-- Whether a global address may go through the cache or uncached (R157, R319). -/
def cacheDomOk (a : Word) : Bool := addrIn [1, 2, 3, 4, 5, 6, 7, 8] a

/-- Bytes of a line. -/
def lineRead (d : BitVec 256) (off n : Nat) : Nat := d.toNat / 2 ^ (8 * off) % 2 ^ (8 * n)
/-- Replace bytes of a line. -/
def lineWrite (d : BitVec 256) (off n v : Nat) : BitVec 256 :=
  let m := (BitVec.allOnes (8 * n)).setWidth 256 <<< (8 * off)
  (d &&& ~~~m) ||| ((BitVec.ofNat (8 * n) v).setWidth 256 <<< (8 * off))

/-- Extend a loaded value (R143). -/
def extendLoad (sx : Bool) (w : Nat) (m : Nat) : Word :=
  if sx then (BitVec.ofNat w m).signExtend 64 else BitVec.ofNat 64 (m % 2 ^ w)

/-- The checks that `LDC` and `STC` make before the cache (R139 row 1, R157, R319). -/
def State.cachedEa (s : State) (op : Op) (f : Nat → State) : State :=
  let a := s.ea op
  let n := eszWidth op.esz / 8
  if a.toNat % n ≠ 0 then s.raise codeALIGN 0 a 0
  else if !cacheDomOk a then s.raise codePROT 7 a 0
  else f a.toNat

/-- The line that a thread may hit (R157, R348). -/
def Core.hit (x : Core) (k : Fin 8) (line : Nat) : Option CLine :=
  (x.line line).filter fun l => match l.readers with | none => true | some m => m.getLsbD k.val

/-- A cached access of the issuing scavenger: on a hit `f` acts on the line, else the line is filled and the thread waits
(R157). -/
def State.withLine (s : State) (k : Fin 8) (a : Nat) (f : CLine → State) : State :=
  let c := s.iss.core
  let line := a / 32 * 32
  match s.cacheFault c k with
  | some (l, s1) => s1.raiseFill l
  | none =>
    match (s.core c).hit k line with
    | some l => f l
    | none => (s.startFill c line).block true 0 0 (waitFill line)

/-- A thread has used a line: it is the most recently used, unless it stood for that thread alone (R348). -/
def Core.usedLine (x : Core) (k : Fin 8) (l : CLine) : Core :=
  match l.readers with
  | none => x.touchLine l
  | some m =>
    let r := m &&& ~~~(1#8 <<< k.val)
    if r = 0 then { x with cache := x.cache.filter fun q => q.addr != l.addr } else x.mapLine l.addr fun q => { q with readers := some r }

/-! ## Uncached accesses (R157) -/

/-- An uncached access of domain `0x7`: `ask` sends it, the thread is not ready until the home answers, and a refused one is `PROT`. -/
def State.uncached (s : State) (k : Fin 8) (a : Nat) (ask : State → State) (f : State → Word → State) : State :=
  let c := s.iss.core
  match (s.scav c k).ask with
  | none => (ask (s.modScav c k fun x => { x with ask := some none })).block false 0 0 0
  | some none => s.block false 0 0 0
  | some (some r) =>
    let s := s.modScav c k fun x => { x with ask := none }
    match r with
    | none => s.raiseFill a
    | some w => f s w

/-- The answer of an uncached access travels to the thread (R157): a doubleword or, with `n` = 2, an error. -/
def State.uncachedStep (s : State) (c : CoreId) (k : Fin 8) (way : Nat) (r : Option Word) : State :=
  s.after way 0 .scavengerCacheFill { EvArg.ofCore c with thr := .scav k, n := if r.isSome then 1 else 2, dw := r.getD 0 }

/-- One way to the home of a domain `0x7` address, and its port. -/
def State.regWay (s : State) (c : CoreId) (core : Nat) : Nat := if core = 0x3FF then s.toTerminus c else s.oneWay c (coreOfNat core)
def regPort (core : Nat) : PortId := if core = 0x3FF then .terminus else .core (coreOfNat core)

/-- An uncached access sets out (R157, R396): its address in `id`; a write, with `n` = 3, brings its data and its bytes. -/
def State.askHome (s : State) (k : Fin 8) (a n : Nat) (v : Word) (bytes : Nat) : State :=
  let c := s.iss.core
  s.sendLater c 1 (s.regWay c (abits a 42 10)) 2 .scavengerCacheFill
    { EvArg.ofCore c with thr := .scav k, n := n, id := a, dw := v, load := .words [BitVec.ofNat 64 bytes, s.iss.stamp] }

/-- An uncached read of domain `0x7` (R157, R486). -/
def State.uncachedRead (s : State) (op : Op) (k : Fin 8) (a : Nat) : State :=
  let n := eszWidth op.esz / 8
  s.uncached k a (fun s => s.askHome k a 0 0 n)
    fun s w => s.putS op 1 0 (extendLoad (Op.sx op) (8 * n) (w.toNat / 2 ^ (8 * (a % 8))))

/-- The doubleword that an uncached read finds at its home; none where it completes ERROR. -/
def State.readHome (s : State) (c : CoreId) (a : Nat) : Option Word :=
  let core := abits a 42 10
  match (if core = 0x3FF then semAt (a % 2 ^ 42 / 8 * 8) else none) with
  | some (i, _) => if c = stationCore then some (s.sem i).stamp else none
  | none => s.readReg core (a % 2 ^ 42 / 8 * 8)

/-- An uncached write of domain `0x7` (R157). -/
def State.uncachedWrite (s : State) (op : Op) (k : Fin 8) (a : Nat) (v : Word) : State :=
  s.uncached k a (fun s => s.askHome k a 3 v (eszWidth op.esz / 8)) fun s _ => s

/-- An uncached read performs at its home. The doubleword at +0 of a semaphore takes the semaphore (R486). -/
def State.readUncached (s : State) (c : CoreId) (k : Fin 8) (a : Nat) : State :=
  let way := s.regWay c (abits a 42 10)
  match (if abits a 42 10 = 0x3FF ∧ c = stationCore then semAt (a % 2 ^ 42 / 8 * 8) else none) with
  | some (i, true) => s.after 0 2 .semaphoreRead { EvArg.ofCore c with thr := .scav k, n := i, id := way, load := .sem (.core c) }
  | _ => s.uncachedStep c k way (s.readHome c a)

/-- An uncached write performs at its home (R157): semaphores and `PWCAP`, of which the bytes written change (R475), by the station core;
every other table refuses a scavenger's write (R294, R321, R488), which completes ERROR. -/
def State.writeUncached (s : State) (c : CoreId) (k : Fin 8) (a n : Nat) (v : Word) : State :=
  let core := abits a 42 10
  let off := a % 2 ^ 42
  let way := s.regWay c core
  match core == 0x3FF && c == stationCore, semAt (off / 8 * 8) with
  | true, some (i, first) =>
    let s := if first then s.after 0 2 .semaphoreRelease { EvArg.ofCore c with thr := .scav k, n := i, load := .sem (.core c) } else s
    s.uncachedStep c k way (some 0)
  | true, none =>
    if off / 8 = 0x50000 / 8 then
      (s.after 0 2 .pwcapWrite { EvArg.ofCore c with dw := v, n := n, id := off % 8 }).uncachedStep c k way (some 0)
    else s.uncachedStep c k way none
  | false, _ => s.uncachedStep c k way none

/-- Load through the scavenger cache (R157). -/
def execLdc (op : Op) (s : State) : Out :=
  perform op s fun s =>
    match s.iss.thr with
    | .prim => s.raise codeILLOP 0 0 0
    | .scav k => s.cachedEa op fun a =>
      if domOf a = 7 then s.uncachedRead op k a
      else s.withLine k a fun l =>
        let n := eszWidth op.esz / 8
        (s.modCore s.iss.core fun x => x.usedLine k l).putS op 1 0
          (extendLoad (Op.sx op) (8 * n) (lineRead l.data (a % 32) n))

/-- Store through the scavenger cache: a miss fills the line first (R157). -/
def execStc (op : Op) (s : State) : Out :=
  perform op s fun s =>
    match s.iss.thr with
    | .prim => s.raise codeILLOP 0 0 0
    | .scav k => s.cachedEa op fun a =>
      let v := s.srcH k op.dst
      if domOf a = 7 then s.uncachedWrite op k a v
      else s.withLine k a fun l =>
        let n := eszWidth op.esz / 8
        let l' : CLine :=
          { l with data := lineWrite l.data (a % 32) n v.toNat,
                   dirty := l.dirty ||| (((1#32 <<< n) - 1) <<< (a % 32)),
                   writers := l.writers ||| (1#8 <<< k.val) }
        if l.readers.isNone then s.modCore s.iss.core fun x => x.touchLine l'
        else (s.modCore s.iss.core fun x => x.usedLine k l).writeBackLine s.iss.core l'

/-- The scavenger cache's own operation (R158): the thread waits for every write-back it caused. Modes 0 and 1 wait too for a write-back of the
line that an eviction or another thread has started, and write the line back again if it is dirty again after that (DESIGN CHOICE, log 115). -/
def execFlushc (op : Op) (s : State) : Out :=
  perform op s fun s =>
    match s.iss.thr with
    | .prim => s.raise codeILLOP 0 0 0
    | .scav k =>
      let c := s.iss.core
      if Op.lop op < 2 then
        s.cachedEa op fun a =>
          let line := a / 32 * 32
          match s.cacheFault c k with
          | some (l, s1) => s1.raiseFill l
          | none =>
            let back := (s.core c).qnet.any fun p => p.kind == .writeBack && p.a.toNat == line
            match (s.core c).line line with
            | some l =>
              if l.dirty ≠ 0 then
                (s.writeBackLine c { l with writers := l.writers ||| (1#8 <<< k.val) }).block true 0 0 (waitBack line)
              else if back then s.block true 0 0 (waitBack line)
              else if Op.lop op = 1 then
                s.modCore c fun x => { x with cache := x.cache.filter fun m => m.addr != line }
              else s
            | none => if back then s.block true 0 0 (waitBack line) else s
      else s.withRelease k true 0 0 fun s => if Op.lop op = 3 then s.invalidateClean c else s

/-! ## The network side -/

/-- A pending cache access. -/
def Core.net (x : Core) (id : Nat) : Option Pend := x.qnet.find? fun p => p.id == id
def Core.dropNet (x : Core) (id : Nat) : Core := { x with qnet := x.qnet.filter fun p => p.id != id }
def Core.mapNet (x : Core) (id : Nat) (f : Pend → Pend) : Core :=
  { x with qnet := x.qnet.map fun p => if p.id == id then f p else p }

/-- A fill or a write-back completes ERROR (R160): the threads that wait for it are told, or a record names the line. A thread whose fill waits
for the write-back of a victim does not wait for that write-back: the record is sent, and its fill goes on (DESIGN CHOICE, log 116). -/
def State.cacheFail (s : State) (c : CoreId) (p : Pend) : State :=
  let x := s.core c
  let line := p.a.toNat
  let told : BitVec 8 :=
    if p.kind == .fill then x.waiters (waitFill line) else x.waiters (waitBack line) ||| (x.releasing &&& p.c.setWidth 8)
  let s := s.modCore c fun x => x.dropNet p.id
  if told ≠ 0 then s.modCore c fun x => { x with cacheErr := x.cacheErr ++ [(line, told)] }
  else if p.kind == .fill then s
  else s.sendRecord c (dieOf c)
    #v[BitVec.ofNat 64 (c.val * 2 ^ 16 + 7 * 2 ^ 8 + 0x25), p.a, s.tsc,
      (vget x.corrected 6).setWidth 64, p.c &&& 0xFF, 0, 0, 0]

/-- A request of the cache fails: a fill with every request that takes a line from its burst (R160, R324). -/
def State.netFail (s : State) (c : CoreId) (p : Pend) : State :=
  let t := s.tileOf c
  match (s.tile t).bursts.find? fun b => b.src == c && b.id == p.id && b.arrives.isNone with
  | none => s.cacheFail c p
  | some b =>
    let s := s.modTile t fun y => { y with bursts := y.bursts.filter fun d => !(d.src == c && d.id == p.id) }
    b.takers.foldl (fun s q => match (s.core q.1).net q.2 with | some r => s.cacheFail q.1 r | none => s) s

/-- A line arrives (R157): it takes a way of its set, or serves only the threads that waited for it before an acquire (R348); a line that
is dirty meanwhile stays, and one with a write-back in flight is not filled (R324). -/
def State.lineArrives (s : State) (c : CoreId) (p : Pend) : State :=
  let a := p.a.toNat
  if p.err then s.cacheFail c p
  else if (s.core c).line a |>.any fun l => l.dirty != 0 then s.modCore c fun x => x.dropNet p.id
  else if (s.core c).qnet.any fun q => q.kind == .writeBack && q.a == p.a then s.modCore c fun x => x.dropNet p.id
  else if p.writing && p.c.setWidth 8 == (0 : BitVec 8) then s.modCore c fun x => x.dropNet p.id
  else
    let l : CLine := { addr := a, data := BitVec.ofNat 256 (bytesToNat p.data), dirty := 0, writers := 0
                       readers := if p.writing then some (p.c.setWidth 8) else none }
    (s.evictFor c a).modCore c fun x => { x.dropNet p.id with cache := l :: x.cache.filter fun q => q.addr != a }

/-- A request of the cache waits for a home's port, in the scavenger class (R396, R397); one of the own vault does not. -/
def State.netPort (s : State) (c : CoreId) (p : Pend) (what : Instr) (term : Nat) : Option State :=
  match s.homeOf c p.a.toNat with
  | none => none
  | some h =>
    if s.evt.k ≠ 0 || s.wayTo c p.a.toNat h = 0 then none
    else match s.portOf h with
      | some port => some (s.arriveAt port { prim := false, stamp := p.stamp, src := c, term := term, what := what, arg := s.evt })
      | none => none

/-- One way back from the home of a request of the cache, and the interface that answers. -/
def State.netBack (s : State) (c : CoreId) (p : Pend) : Nat × Option CoreId :=
  match s.homeOf c p.a.toNat with
  | some h => let w := s.wayTo c p.a.toNat h
    (w, if w = 0 then none else s.faceOf h)
  | none => (0, none)

/-- A burst is read at its home (R324): the whole block passes through the L2 slices of its lines (R322) or takes its scratchpad's ports
(R140), each line on its own, and its flits wait for the slot of the home's interface (R396). -/
def State.readBurst (s : State) (c : CoreId) (p : Pend) (w : Answer) : State :=
  let t := s.tileOf c
  match (s.tile t).bursts.find? fun b => b.src == c && b.id == p.id with
  | none => s
  | some b =>
    let whole := match w with
      | .at_ key leaf => Answer.at_ (key - 32 * b.first) leaf
      | .scratch d q sbt => .scratch d (q - 32 * b.first) sbt
      | x => x
    let s := match whole with
      | .at_ key leaf => s.throughL2 key (p.a.toNat / 256 * 256 % 2 ^ 48) 256 leaf
      | w => s.useHome w 256
    let lines := (List.range 8).map fun i =>
      let at_ := whole.plus (32 * i)
      let bad := match at_ with
        | .at_ key _ => s.meetsSpoilt key 32 false
        | .scratch d q sbt => s.progSpoilt d sbt q 32 false
        | _ => true
      if bad then none else some (s.readAt at_ 32)
    let b := { b with began := s.cycle, lines := lines }
    let s := s.modTile t fun y => { y with bursts := y.bursts.map fun d => if d.src == c && d.id == p.id then b else d }
    let s := b.takers.foldl (fun s q => s.sendFlit b q) s
    s.sendFace (s.netBack c p).2 false 8 0 2 .scavengerCacheFill { argId c p.id with k := 6 }

/-- A burst has left its home: its first flit reaches the tile after the way back. -/
def State.burstLeaves (s : State) (c : CoreId) (p : Pend) : State :=
  let t := s.tileOf c
  match (s.tile t).bursts.find? fun b => b.src == c && b.id == p.id with
  | none => s
  | some b =>
    let b := { b with arrives := some (s.cycle + (s.netBack c p).1) }
    let s := s.modTile t fun y => { y with bursts := y.bursts.map fun d => if d.src == c && d.id == p.id then b else d }
    b.takers.foldl (fun s q => s.sendFlit b q) s

/-- The step at a home comes again when the walks have ended (R330). -/
def State.afterWalk (s : State) (walk : Nat) (what : Instr) : State := s.after walk 2 what { s.evt with k := 1, n := 1 }

/-- Whether an access must wait for its walk, and has not yet (R330). -/
def State.walkOwed (s : State) (walk : Nat) : Bool := walk != 0 && s.evt.n != 1

/-- The access of the step in progress, with whether it has waited for its walks. -/
def State.accNow (s : State) (acc : Acc) : Acc := { acc with walked := s.evt.n == 1 }

/-- An uncached access at the home's port, past it, or answered. -/
def State.uncachedAt (s : State) (c : CoreId) (k : Fin 8) : State :=
  let e := s.evt
  let a := e.id
  if e.n = 1 ∨ e.n = 2 then s.modScav c k fun x => { x with ask := x.ask.map fun _ => some (if e.n = 1 then some e.dw else none) }
  else
    let ws := match e.load with | .words ws => ws | _ => []
    if e.k = 0 then s.arriveAt (regPort (abits a 42 10))
      { prim := false, stamp := (ws[1]?).getD 0, src := c, term := 0, what := .scavengerCacheFill, arg := e }
    else if e.n = 3 then s.writeUncached c k a ((ws[0]?).getD 8).toNat e.dw
    else s.readUncached c k a

/-- A fill at its home and at the requester (R157, R324); with a scavenger's thread, an uncached access. -/
def execScavengerCacheFill (s : State) : Out :=
  let c := s.evt.core
  match s.evt.thr with
  | .scav k => .next (s.uncachedAt c k)
  | .prim =>
  match (s.core c).net s.evt.id with
  | none => .next s
  | some p =>
    if s.evt.k = 6 then .next (s.burstLeaves c p)
    else if p.performed then .next (s.lineArrives c p)
    else match (s.homeOf c p.a.toNat).bind fun h => s.putOffHome h false .scavengerCacheFill with
    | some t => .next t
    | none =>
      match s.netPort c p .scavengerCacheFill ((s.homeOf c p.a.toNat).elim 0 readTerm) with
      | some t => .next t
      | none =>
        let a := p.a.toNat
        let r := s.answer c a 32 true (s.accNow accRead)
        if s.walkOwed r.2.2 then .next (r.2.1.afterWalk r.2.2 .scavengerCacheFill) else
        match r.1 with
        | .at_ _ _ | .scratch _ _ _ => .next (r.2.1.readBurst c p r.1)
        | .error => .next (r.2.1.netFail c p)
        | .refused h l => .next ((r.2.1.sendRefused c.val h l a).netFail c p)
        | .fault h k l => .next (r.2.1.sendNotice c p.id h k l a)

/-- The dirty bytes of a line, by their places in it. -/
def dirtyBytes (m : Word) : List Nat := (List.range 32).filter fun i => m.getLsbD i

/-- The dirty bytes of a write-back, written at its home (R156): `LDC` and `STC` change no full-empty bit (R157). -/
def State.writeDirty (s : State) (w : Answer) (tr : Tracer) (a : Nat) (p : Pend) : State :=
  (dirtyBytes p.b).foldl (fun s i => s.writeAt (w.plus i).untraced false tr (a + i) [(p.data[i]?).getD 0]) s

/-- A write-back has performed: its acknowledgement waits for the slot of the home's interface and travels back. -/
def State.backDone (s : State) (c : CoreId) (p : Pend) : State :=
  let b := s.netBack c p
  (s.modCore c fun x => x.mapNet p.id fun q => { q with performed := true }).sendFace b.2 false 1 b.1 0 .scavengerCacheWritebackAck (argId c p.id)

/-- A write-back into a scratchpad: a guard holds it only where its dirty bytes lie, and they take its ports (R140, R202). -/
def State.backScratch (s : State) (c : CoreId) (p : Pend) (w : Answer) : State :=
  let at_ := fun (i : Nat) => w.plus i
  let g := (dirtyBytes p.b).foldl (fun m i => max m (s.guardHold (at_ i) 1)) 0
  if g ≠ 0 then s.after g 2 .scavengerCacheWritebackAck { s.evt with k := 1 }
  else
    let s := match w with
      | .scratch d q sbt => s.useSpans d sbt s.cycle ((dirtyBytes p.b).map fun i => (q + i, 1))
      | _ => s
    (s.writeDirty w ⟨c.val, 1, 3⟩ p.a.toNat p).backDone c p

/-- A write-back at its home and its acknowledgement (R156, R158, R160, R202, R338). -/
def execScavengerCacheWritebackAck (s : State) : Out :=
  let c := s.evt.core
  match (s.core c).net s.evt.id with
  | none => .next s
  | some p =>
    if p.performed then .next (s.modCore c fun x => x.dropNet p.id)
    else match (s.homeOf c p.a.toNat).bind fun h => s.putOffHome h true .scavengerCacheWritebackAck with
    | some t => .next t
    | none =>
      match s.netPort c p .scavengerCacheWritebackAck 0 with
      | some t => .next t
      | none =>
        let a := p.a.toNat
        let r := s.answer c a 32 false (s.accNow accWriteBack)
        if s.walkOwed r.2.2 then .next (r.2.1.afterWalk r.2.2 .scavengerCacheWritebackAck) else
        match r.1 with
        | .at_ key leaf =>
          let s1 := r.2.1.writeDirty r.1 ⟨c.val, 1, 3⟩ a p
          let thr := (List.range 8).find? (fun k => p.c.getLsbD k)
          let s2 := if leaf.getLsbD 50 && decide (2 * 2 ^ 52 ≤ key) && decide (key < 3 * 2 ^ 52) then
              s1.trace (coreOfNat (abits key 42 10)) c.val ((thr.getD 0) + 1) 3 a (dirtyBytes p.b).length (key % 2 ^ 42) else s1
          .next (s2.backDone c p)
        | .scratch _ _ _ => .next (r.2.1.backScratch c p r.1)
        | .error => .next (r.2.1.cacheFail c p)
        | .refused h l => .next ((r.2.1.sendRefused c.val h l a).cacheFail c p)
        | .fault h k l => .next (r.2.1.sendNotice c p.id h k l a)

end Sys2Proof.Machine
end

