-- ==== Sys2Proof/Machine/Memory.lean ====
section
/-! DEFINITION. Scratchpad loads and stores (R135 to R153): the checks of R139 with the watch of R376, scalar and vector
accesses, acquire and release, full-empty accesses. Atomics stand in Machine/Atomic.lean. -/

namespace Sys2Proof.Machine

open Sys2Proof

/-! ## Checks (R139) -/

/-- Whether the watch of R376 matches a byte. -/
def watchHits (ctl : CoreCtl) (write : Bool) (p : Nat) : Bool :=
  (if write then ctl.watcha.getLsbD 62 else ctl.watcha.getLsbD 63) &&
  ((BitVec.ofNat 21 p ^^^ ctl.watcha.setWidth 21) &&& ~~~(ctl.watchm.setWidth 21)) == 0

/-- A failed check: code, sub-cause, address, element. -/
structure Bad where
  code : BitVec 8
  sub : BitVec 8
  addr : Word
  elem : Nat
  deriving DecidableEq, Repr

/-- One element of an access: its number and its address. -/
abbrev Elem := Nat × Word

/-- Rows 1 to 3 of R139 over the elements of an access, each row over every element before the next. -/
def rows123 (ctl : CoreCtl) (t : Thr) (write : Bool) (n : Nat) (es : List Elem) : Option Bad :=
  match es.find? fun e => e.2.toNat % n ≠ 0 with
  | some e => some ⟨codeALIGN, 0, e.2, e.1⟩
  | none =>
    match es.find? fun e => decide (2 ^ 21 ≤ e.2.toNat) with
    | some e => some ⟨codePROT, 1, e.2, e.1⟩
    | none =>
      es.findSome? fun e => (protSub ctl t write e.2.toNat).map fun c => ⟨codePROT, c, e.2, e.1⟩

/-- The watch of the primary: after row 4 and before row 5 (R376). -/
def watchRow (ctl : CoreCtl) (t : Thr) (rd wr : Bool) (n : Nat) (es : List Elem) : Option Bad :=
  if t ≠ .prim || !(ctl.watcha.getLsbD 63 || ctl.watcha.getLsbD 62) then none
  else es.findSome? fun e =>
    (List.range n).findSome? fun i =>
      let p := e.2.toNat + i
      if (rd && watchHits ctl false p) || (wr && watchHits ctl true p) then
        some ⟨codeWATCH, 0, BitVec.ofNat 64 p, e.1⟩ else none

/-- Row 5: a write into a guarded range (R139, R202). -/
def guardRow (x : Core) (cycle n : Nat) (es : List Elem) : Option Bad :=
  if x.qmx.isEmpty then none
  else es.findSome? fun e => (firstGuarded x cycle e.2.toNat n).map fun p => ⟨codeOPGUARD, 0, BitVec.ofNat 64 p, e.1⟩

/-- An access of a doubleword with an uncorrectable error (R514). -/
def State.spoiltRow (s : State) (whole : Bool) (n : Nat) (es : List Elem) : Option Bad :=
  if s.spoilt.isEmpty then none
  else (es.find? fun e => s.progSpoilt s.iss.core (s.sbt s.iss.core) e.2.toNat n whole).map fun e => ⟨codePROT, 9, e.2, e.1⟩

/-- The first failure among two checks in order. -/
def orBad (a b : Option Bad) : Option Bad := match a with | some x => some x | none => b

/-- All rows of R139 but row 4 for an access, and the uncorrectable errors of R514; `rd` and `wr` arm the watch, `data` the guard. -/
def State.accessBad (s : State) (rd wr data : Bool) (n : Nat) (es : List Elem) : Option Bad :=
  let x := s.core s.iss.core
  orBad (rows123 x.ctl s.iss.thr wr n es)
    (orBad (watchRow x.ctl s.iss.thr rd wr n es)
      (orBad (if data then guardRow x (s.clock s.iss.core) n es else none) (s.spoiltRow (wr && !rd) n es)))

/-- Raise a failed check, or act. -/
def State.checked (s : State) (b : Option Bad) (f : State → State) : State :=
  match b with
  | some e => s.raise e.code e.sub e.addr e.elem
  | none => f s

/-- An access under its checks; on the primary it claims its bank ports: one port for one cycle, or port 2 for `span` cycles (R140). -/
def State.access (s : State) (b : Option Bad) (span : Nat) (es : List Elem) (f : State → State) : State :=
  s.checked b fun s => f (s.claimPorts span (es.map fun e => e.2.toNat))

/-- Keep the old bytes of a run that is about to be written: an engine may still read them (R220). -/
def State.keepOld (s : State) (c : CoreId) (t : Option Thr) (behind : List Nat) (key n : Nat) : State :=
  s.modCore c fun x =>
    { x with oldBytes := { thr := t, behind := behind, at_ := x.nextId, fenced := none, key := key, old := s.readKey key n } :: x.oldBytes }

/-- Write bytes of the issuing core's scratchpad, aligned to their number. -/
def State.store (s : State) (fe : Bool) (p n v : Nat) : State :=
  let c := s.iss.core
  ((s.keepOld c (some s.iss.thr) [] (progKey (s.sbt c) c p) n).writeProg c (s.sbt c) fe p (natToBytes n v)).mendProg c (s.sbt c) p n

/-- Read a number of the issuing core's scratchpad. -/
def State.load (s : State) (p n : Nat) : Nat := s.readProgNat s.iss.core (s.sbt s.iss.core) p n

/-- The data register of a scalar store: field `dst` (R136). -/
def State.dataS (s : State) (op : Op) : Word := s.valS op.dst false

/-! ## Scalar loads and stores (R143, R146, R147) -/

/-- A scalar load of latency L. -/
def State.scalarLoad (s : State) (op : Op) (lat : Nat) : State :=
  let a := s.ea op
  let n := eszWidth op.esz / 8
  s.access (s.accessBad true false false n [(0, a)]) 1 [(0, a)] fun s =>
    s.putS op lat 0 (extendLoad (Op.sx op) (8 * n) (s.load a.toNat n))

/-- A scalar store. -/
def State.scalarStore (s : State) (op : Op) : State :=
  let a := s.ea op
  let n := eszWidth op.esz / 8
  s.access (s.accessBad false true true n [(0, a)]) 1 [(0, a)] fun s => s.store true a.toNat n (s.dataS op).toNat

def execLd (op : Op) (s : State) : Out := perform op s fun s => s.scalarLoad op 4
def execSt (op : Op) (s : State) : Out := perform op s fun s => s.scalarStore op

/-- An acquire: on a scavenger at `.til` or wider, every clean line of the cache is invalidated after the load (R147). -/
def execLdacq (op : Op) (s : State) : Out :=
  perform op s fun s =>
    let s1 := s.scalarLoad op 5
    match s.iss.thr with
    | .prim => s1
    | .scav _ =>
      if decide (2 ≤ Op.lop op) && s1.iss.raised == s.iss.raised then s1.invalidateClean s.iss.core else s1

/-- A release: on a scavenger at `.til` or wider, the lines that hold its writes are written back first (R147). -/
def execStrel (op : Op) (s : State) : Out :=
  perform op s fun s =>
    match s.iss.thr with
    | .prim => s.scalarStore op
    | .scav k =>
      let a := s.ea op
      let n := eszWidth op.esz / 8
      if 2 ≤ Op.lop op then
        s.checked (s.accessBad false true true n [(0, a)]) fun s => s.withRelease k true 0 0 fun s => s.scalarStore op
      else s.scalarStore op

/-! ## Full-empty accesses (R149, R151, R152) -/

/-- The key of a program address of the issuing core. -/
def State.keyOf (s : State) (p : Nat) : Nat := progKey (s.sbt s.iss.core) s.iss.core p

/-- The bound of a full-empty wait (R150). -/
def State.feLimit (s : State) : Nat := (s.core s.iss.core).ctl.felimit.toNat
/-- The bound of the other waits (R42). -/
def State.qLimit (s : State) : Nat := (s.core s.iss.core).ctl.qlimit.toNat

/-- The full-empty bit of a doubleword changes: its line is dirty (R263). -/
def State.changeFe (s : State) (p : Nat) (full : Bool) : State :=
  (s.setFe (s.keyOf p) full).markDirty s.iss.core (physAddr (s.sbt s.iss.core) p)

/-- Wait for full, read, set empty (R149). -/
def execLdf (op : Op) (s : State) : Out :=
  perform op s fun s =>
    let a := s.ea op
    s.checked (s.accessBad true false false 8 [(0, a)]) fun s =>
      if s.isFull (s.keyOf a.toNat) then
        ((s.claimPorts 1 [a.toNat]).changeFe a.toNat false).putS op 4 0 (BitVec.ofNat 64 (s.load a.toNat 8))
      else s.block false s.feLimit codeFEWAIT a.toNat

/-- Wait for empty, write, set full (R149). -/
def execStf (op : Op) (s : State) : Out :=
  perform op s fun s =>
    let a := s.ea op
    s.checked (s.accessBad false true true 8 [(0, a)]) fun s =>
      if s.isFull (s.keyOf a.toNat) then s.block false s.feLimit codeFEWAIT a.toNat
      else ((s.claimPorts 1 [a.toNat]).store false a.toNat 8 (s.dataS op).toNat).changeFe a.toNat true

/-- Read the bit, then change it as `op` says; no data is read (R152). -/
def execLdfe (op : Op) (s : State) : Out :=
  perform op s fun s =>
    let a := s.ea op
    s.access (s.accessBad true false false 8 [(0, a)]) 1 [(0, a)] fun s =>
      let full := s.isFull (s.keyOf a.toNat)
      let s1 := match Op.lop op with
        | 1 => s.changeFe a.toNat false
        | 2 => s.changeFe a.toNat true
        | _ => s
      s1.putS op 4 0 (if full then 1 else 0)

/-! ## Vector loads and stores (R144, R145) -/

/-- The unmasked elements of an access: element e is governed by its lowest byte's mask bit (R40). -/
def unmasked (k : Mask) (w : Nat) : List Nat := (List.range (4096 / w)).filter fun e => k.getLsbD (e * (w / 8))

/-- The mask of a vector access: `k[c]` (R144). -/
def State.accMask (s : State) (op : Op) : Mask := (s.prim s.iss.core).regs.rdK op.c

/-- EA of a contiguous access: s[a] + s[b] + offset (R144). -/
def State.eaVec (s : State) (op : Op) : Word :=
  s.valS op.a op.la + (if op.b = 0 && !op.lb then 0 else s.valS op.b op.lb) + Op.imm12 op

/-- Element addresses of the four address forms (R144). -/
def State.contigElems (s : State) (op : Op) : List Elem :=
  let w := eszWidth op.esz
  (unmasked (s.accMask op) w).map fun e => (e, s.eaVec op + BitVec.ofNat 64 (e * (w / 8)))
def State.stridedElems (s : State) (op : Op) : List Elem :=
  let st := if op.b = 0 && !op.lb then 0 else s.valS op.b op.lb
  (unmasked (s.accMask op) (eszWidth op.esz)).map fun e => (e, s.eaBase op + BitVec.ofNat 64 e * st)
def State.bcastElems (s : State) (op : Op) : List Elem :=
  (unmasked (s.accMask op) (eszWidth op.esz)).map fun e => (e, s.eaBase op)
def State.indexedElems (s : State) (op : Op) : List Elem :=
  let idx := (s.srcV op.b op.lb false 32).1
  let base := s.valS op.a op.la
  (unmasked (s.accMask op) (eszWidth op.esz)).map fun e =>
    (e, base + BitVec.ofNat 64 ((idx.toNat / 2 ^ (32 * e) % 2 ^ 32) * 2 ^ op.xbits 0 2))

/-- The distinct doublewords of a list of elements. -/
def distinctDws (es : List Elem) : List Nat := (es.map fun e => e.2.toNat / 8).eraseDups

/-- Whether an operation is a strided or an indexed one (R141). -/
def isSparse (i : Instr) : Bool := match i with | .vlds _ | .vsts _ | .vldx _ | .vstx _ => true | _ => false

/-- Whether a strided or indexed operation stands before the operation in progress in its bundle (R141): in `L0`, with a predicate that
holds. -/
def State.secondSparse (s : State) : Bool :=
  s.iss.slot == 5 && s.iss.ops.any fun o => o.slot == 4 && isSparse o.instr && o.instr.op?.any fun q => s.holds q

/-- Row 4 (R139, R141): the spacing rule, then the capacity of a bank. Of an operation that breaches both, the element named is that of the
spacing breach (DESIGN CHOICE, log 114). -/
def State.bankRow (s : State) (cap : Nat) (es : List Elem) : Option Bad :=
  let info := BitVec.ofNat 64 ((s.core s.iss.core).wordAt s.iss.thr s.iss.waddr.toNat).toNat
  if (s.prim s.iss.core).spacing ≠ 0 || s.secondSparse then
    some ⟨codeSLOTCLASH, 0, info, match es with | e :: _ => e.1 | [] => 0⟩
  else
    let ds := distinctDws es
    match es.find? fun e => decide (cap < (ds.filter fun d => d % 512 == e.2.toNat / 8 % 512).length) with
    | some e => some ⟨codeSLOTCLASH, 0, info, e.1⟩
    | none => none

/-- All rows of R139 for a strided (capacity 4) or indexed (8) access. -/
def State.sparseBad (s : State) (wr : Bool) (cap n : Nat) (es : List Elem) : Option Bad :=
  let x := s.core s.iss.core
  orBad (rows123 x.ctl s.iss.thr wr n es)
    (orBad (s.bankRow cap es)
      (orBad (watchRow x.ctl s.iss.thr (!wr) wr n es)
        (orBad (if wr then guardRow x (s.clock s.iss.core) n es else none) (s.spoiltRow wr n es))))

/-- A strided or indexed operation begins its window: no other for 3 or 7 bundles after this one (R141). -/
def State.spaced (s : State) (n : Nat) : State := { s with iss := { s.iss with spacing := max s.iss.spacing n } }

/-- The loaded vector: masked-off elements are zero (R144). -/
def State.gather (s : State) (w : Nat) (es : List Elem) : Vec :=
  es.foldl (fun (v : Vec) e => v ||| (BitVec.ofNat 4096 (s.load e.2.toNat (w / 8)) <<< (w * e.1))) 0

/-- Store elements in rising order, so that the highest-numbered element's bytes stand (R145). -/
def State.scatter (s : State) (w : Nat) (v : Vec) (es : List Elem) : State :=
  es.foldl (fun s e => s.store true e.2.toNat (w / 8) (v.toNat / 2 ^ (w * e.1) % 2 ^ w)) s

/-- The data vector of a store: field `dst` (R144). -/
def State.dataV (s : State) (op : Op) : Vec := (s.prim s.iss.core).regs.rdV op.dst

def execVld (op : Op) (s : State) : Out :=
  perform op s fun s =>
    let w := eszWidth op.esz
    let es := s.contigElems op
    s.access (s.accessBad true false false (w / 8) es) 1 es fun s => s.putV op 6 0 (s.gather w es)

def execVlds (op : Op) (s : State) : Out :=
  perform op s fun s =>
    let w := eszWidth op.esz
    let es := s.stridedElems op
    s.access (s.sparseBad false 4 (w / 8) es) 4 es fun s => (s.putV op 6 0 (s.gather w es)).spaced 4

/-- One value to every unmasked element (R145). -/
def execVldb (op : Op) (s : State) : Out :=
  perform op s fun s =>
    let w := eszWidth op.esz
    let es := s.bcastElems op
    s.access (s.accessBad true false false (w / 8) es) 1 es fun s => s.putV op 6 0 (s.gather w es)

def execVst (op : Op) (s : State) : Out :=
  perform op s fun s =>
    let w := eszWidth op.esz
    let es := s.contigElems op
    s.access (s.accessBad false true true (w / 8) es) 1 es fun s => s.scatter w (s.dataV op) es

def execVsts (op : Op) (s : State) : Out :=
  perform op s fun s =>
    let w := eszWidth op.esz
    let es := s.stridedElems op
    s.access (s.sparseBad true 4 (w / 8) es) 4 es fun s => (s.scatter w (s.dataV op) es).spaced 4

def execVldx (op : Op) (s : State) : Out :=
  perform op s fun s =>
    let w := eszWidth op.esz
    let es := s.indexedElems op
    s.access (s.sparseBad false 8 (w / 8) es) 8 es fun s => (s.putV op 10 0 (s.gather w es)).spaced 8

def execVstx (op : Op) (s : State) : Out :=
  perform op s fun s =>
    let w := eszWidth op.esz
    let es := s.indexedElems op
    s.access (s.sparseBad true 8 (w / 8) es) 8 es fun s => (s.scatter w (s.dataV op) es).spaced 8

end Sys2Proof.Machine
end

