-- ==== Sys2Proof/Machine/Atomic.lean ====
section
/-! DEFINITION. Atomics of the scratchpad (R154, R155); `RATOM` uses the same operators (R235). -/

namespace Sys2Proof.Machine

open Sys2Proof

/-- The new value of an atomic from the old x and the operand y, w bits each (R154). -/
def atomNew (code w x y : Nat) : Nat :=
  let sx := (BitVec.ofNat w x).toInt
  let sy := (BitVec.ofNat w y).toInt
  match code with
  | 0 => (x + y) % 2 ^ w
  | 1 => x &&& y
  | 2 => x ||| y
  | 3 => x ^^^ y
  | 4 => if sy < sx then y else x
  | 5 => if sx < sy then y else x
  | 6 => min x y
  | 7 => max x y
  | 8 => y
  | _ => faddRn (if w = 64 then .f64 else .f32) x y

/-- The check of an atomic: a read and a write at one place (R139, R155). -/
def State.atomBad (s : State) (n : Nat) (a : Word) : Option Bad :=
  let x := s.core s.iss.core
  orBad (rows123 x.ctl s.iss.thr false n [(0, a)]) (s.accessBad true true true n [(0, a)])

/-- One indivisible access: the bytes become what `f` makes of the old value, which goes to `s[dst]`; with none nothing is written. The
full-empty bit is unchanged (R155). -/
def State.atomic (s : State) (op : Op) (f : Nat → Option Nat) : State :=
  let a := s.eaBase op
  let n := eszWidth op.esz / 8
  s.access (s.atomBad n a) 1 [(0, a)] fun s =>
    let x := s.load a.toNat n
    (match f x with | some y => s.store false a.toNat n y | none => s).putS op 4 0 (BitVec.ofNat 64 x)

/-- `c`[3:0] is the operator (R154). A scavenger's `.fadd` forfeits no turn, whatever it meets: R66 and R37 speak of floating-point operations,
and an atomic is none of R123's (log 95). -/
def execAtom (op : Op) (s : State) : Out :=
  perform op s fun s =>
    let w := eszWidth op.esz
    let y := (s.valS op.b op.lb).toNat % 2 ^ w
    s.atomic op fun x => some (atomNew (op.c.toNat % 16) w x y)

/-- Store `s[c]` if the old value equals `s[b]` (R155). -/
def execCas (op : Op) (s : State) : Out :=
  perform op s fun s =>
    let w := eszWidth op.esz
    let y := (s.valS op.b op.lb).toNat % 2 ^ w
    let z := (s.valS op.c op.lc).toNat % 2 ^ w
    s.atomic op fun x => if x = y then some z else none

end Sys2Proof.Machine
end

