-- ==== Sys2Proof/Machine/ScalarFp.lean ====
section
/-! DEFINITION. Scalar floating point (R123 to R130), with the enabled traps of R57 and the normaliser's forfeit (R37,
R66). -/

namespace Sys2Proof.Machine

open Sys2Proof

/-- The trap enables of the issuing thread. -/
def State.fpxen (s : State) : BitVec 6 :=
  match s.iss.thr with
  | .prim => (s.prim s.iss.core).fpxen
  | .scav k => (s.scav s.iss.core k).fpxen

/-- Set flags of the issuing thread at once. -/
def State.orFpstat (s : State) (flg : BitVec 6) : State :=
  match s.iss.thr with
  | .prim => s.modPrim s.iss.core fun p => { p with fpstat := p.fpstat ||| flg }
  | .scav k => s.modScav s.iss.core k fun x => { x with fpstat := x.fpstat ||| flg }

/-- End a floating-point operation that read its operands from `s0` and stands at `s`: an enabled flag raises `FPX` with
the flags set and nothing popped (R57, R130, R168); otherwise `f` delivers the result. -/
def State.finishFp (s0 s : State) (flg : BitVec 6) (f : State → State) : State :=
  let hit := flg &&& s0.fpxen
  if hit ≠ 0 then ((State.oweBack s0 s).orFpstat flg).raise codeFPX 0 (hit.setWidth 64) 0 else f s

/-- The forfeit of a scavenger's next two turns (R37). -/
def State.forfeit (s : State) (due : Bool) : State :=
  match s.iss.thr with
  | .prim => s
  | .scav k =>
    if due then s.modScav s.iss.core k fun x => { x with st := .forfeit 2 } else s

/-- A scalar floating-point operand: the low bits of the source (R123). -/
def lowBits (t : Ty) (w : Word) : Nat := w.toNat % 2 ^ t.width

/-- An arithmetic operation on up to three operands (R124): `f` works on values; `n` operands are read. -/
def arithF (op : Op) (n lat : Nat) (f : FFmt → FMode → FVal → FVal → FVal → FRes) (s : State) : Out :=
  perform op s fun s =>
    let t := (Op.scalarTy op).getD .f32
    let m := modeOf op t
    let src := s.srcN op n
    let raw := [lowBits t src.1, lowBits t src.2.1, lowBits t src.2.2.1].take n
    let val := fun (i : Nat) => operandF (fmtOf t) m.ftz ((raw[i]?).getD 0)
    let r := f (fmtOf t) m (val 0) (val 1) (val 2)
    let sub := !m.ftz && (r.tiny || raw.any fun x => isSubnormal (fmtOf t) x)
    State.finishFp s src.2.2.2 r.flg fun s =>
      (if lat = 14 then s.putLong op 14 r.flg (BitVec.ofNat 64 r.bits)
       else s.putS op lat r.flg (BitVec.ofNat 64 r.bits)).forfeit sub

def execFadd (op : Op) (s : State) : Out := arithF op 2 4 (fun f m x y _ => sumF f m [x, y]) s
def execFsub (op : Op) (s : State) : Out := arithF op 2 4 (fun f m x y _ => sumF f m [x, y.negate]) s
def execFmul (op : Op) (s : State) : Out := arithF op 2 4 (fun f m x y _ => mulF f m x y) s
def execFma (op : Op) (s : State) : Out := arithF op 3 4 (fun f m x y z => fmaF f m x y z) s
def execFdiv (op : Op) (s : State) : Out := arithF op 2 14 (fun f m x y _ => divF f m x y) s
def execFsqrt (op : Op) (s : State) : Out := arithF op 1 14 (fun f m x _ _ => sqrtF f m x) s

/-- `FMIN` and `FMAX` on the operands' bits (R126). -/
def extremeF (op : Op) (isMax : Bool) (s : State) : Out :=
  perform op s fun s =>
    let t := (Op.scalarTy op).getD .f32
    let fl := flushOf op
    let src := s.srcAB op
    let x := lowBits t src.1
    let y := lowBits t src.2.1
    let r := minmaxF (fmtOf t) fl isMax x y
    State.finishFp s src.2.2 r.flg fun s =>
      (s.putS op 4 r.flg (BitVec.ofNat 64 r.bits)).forfeit
        (!fl && (isSubnormal (fmtOf t) x || isSubnormal (fmtOf t) y))

def execFmin (op : Op) (s : State) : Out := extremeF op false s
def execFmax (op : Op) (s : State) : Out := extremeF op true s

/-- The condition stands in `x12`[3:0] (R127). -/
def execFcmp (op : Op) (s : State) : Out :=
  perform op s fun s =>
    let t := (Op.scalarTy op).getD .f32
    let fl := flushOf op
    let src := s.srcAB op
    let x := lowBits t src.1
    let y := lowBits t src.2.1
    let r := cmpF op.modifier (operandF (fmtOf t) fl x) (operandF (fmtOf t) fl y)
    State.finishFp s src.2.2 r.2 fun s =>
      (s.putP op.dst r.2 r.1).forfeit (!fl && (isSubnormal (fmtOf t) x || isSubnormal (fmtOf t) y))

/-- A conversion of one pattern between types (R59): the pattern of the target's width, flags, tiny result. Under a flush a subnormal source
reads as zero; `flushes` says that the result is flushed too, as it is in `FCVT` (R59, R128) and not in `VCVT` (R166; log 53). A flush changes
no integer target. -/
def convertBits (o : Op) (flushes : Bool) (dt st : Ty) (x : Nat) : FRes :=
  let m := modeOf o dt
  if st.isFloat then
    if dt.isFloat then convF (fmtOf dt) { m with ftz := m.ftz && flushes } (operandF (fmtOf st) m.ftz x)
    else
      let r := toIntF dt m.rnd (operandF (fmtOf st) false x)
      ⟨wrapInt dt.width r.1, r.2, false⟩
  else ofIntF (fmtOf dt) { m with ftz := m.ftz && flushes } (intOf st x)

/-- Convert `s[a]` from the type in `x12`[7:4] to the type in `x12`[3:0] (R128). -/
def execFcvt (op : Op) (s : State) : Out :=
  perform op s fun s =>
    let st := (tyOfCode op.tyCode).getD .f32
    let dt := (tyOfCode op.modifier).getD .f32
    let src := s.srcS op.a op.la
    let x := lowBits st src.1
    let r := convertBits op true dt st x
    let out := if dt.isSigned then (BitVec.ofNat dt.width r.bits).signExtend 64 else BitVec.ofNat 64 r.bits
    State.finishFp s src.2 r.flg fun s =>
      (s.putS op 4 r.flg out).forfeit
        (!flushOf op && (r.tiny || (st.isFloat && isSubnormal (fmtOf st) x)))

/-- One class bit of the bits as stored (R129). -/
def execFclass (op : Op) (s : State) : Out :=
  perform op s fun s =>
    let t := (Op.scalarTy op).getD .f32
    let src := s.srcS op.a op.la
    src.2.putS op 1 0 (BitVec.ofNat 64 (2 ^ classF (fmtOf t) (lowBits t src.1)))

end Sys2Proof.Machine
end

