-- ==== Sys2Proof/Machine/Ctrl.lean ====
section
/-! DEFINITION. The control registers (R42 to R47, R313 to R315, R334, R367, R376, R446, R503, R510): access, reads, writes,
and the operations of major `0x10` (R131 to R134). -/

namespace Sys2Proof.Machine

open Sys2Proof

/-- Access codes of R42. -/
inductive CAcc where
  | ro
  | rw
  | w1c
  | pw
  | pr
  deriving DecidableEq, Repr

/-- The access of a control-register number; none for an unassigned number (R42 and the numbers assigned in addition). -/
def ctlAcc (n : Nat) : Option CAcc :=
  if decide (0x040 ≤ n) && decide (n ≤ 0x047) then some .rw
  else if decide (0x100 ≤ n) && decide (n ≤ 0x15F) then some .pw
  else if decide (0x200 ≤ n) && decide (n ≤ 0x2C3) then some .pr
  else match n with
    | 0x000 => some .ro
    | 0x001 => some .w1c
    | 0x002 => some .ro
    | 0x003 => some .ro
    | 0x004 => some .rw
    | 0x005 => some .rw
    | 0x006 => some .rw
    | 0x007 => some .rw
    | 0x008 => some .pw
    | 0x009 => some .ro
    | 0x00A => some .pw
    | 0x00B => some .rw
    | 0x010 => some .ro
    | 0x011 => some .ro
    | 0x012 => some .ro
    | 0x020 => some .pw
    | 0x021 => some .pr
    | 0x022 => some .pr
    | 0x023 => some .pr
    | 0x024 => some .pr
    | 0x025 => some .pw
    | 0x026 => some .pw
    | _ => none

/-- The numbers that a scavenger may read (R44, R446, R503). -/
def scavReads (n : Nat) : Bool := [0x000, 0x002, 0x004, 0x005, 0x006, 0x007, 0x009, 0x00A, 0x00B, 0x010, 0x011].contains n
/-- The numbers that a scavenger may write (R44). -/
def scavWrites (n : Nat) : Bool := n == 0x004 || n == 0x005

/-! ## Reads -/

/-- Ready bits of tags, tag 0 lowest. -/
def tagBits : List Tag → Nat
  | [] => 0
  | t :: l => (if t.ready then 1 else 0) + 2 * tagBits l
/-- Statuses of tags, two bits each. -/
def tagStatus : List Tag → Nat
  | [] => 0
  | t :: l => t.status.toNat + 4 * tagStatus l

/-- `CORID` (R45). -/
def State.corid (s : State) (c : CoreId) (t : Thr) : Word :=
  let p := s.posOf c
  BitVec.ofNat 64 (flagAt (isSupervisor c) 28 +
    (match t with | .prim => 0 | .scav k => k.val * 2 ^ 25 + 2 ^ 24) + (p / 14) * 2 ^ 20 + (p % 14) * 2 ^ 16 + c.val)

/-- `PORTLAT` (R45, R442). -/
def State.portLatWord (s : State) (c : CoreId) : Word :=
  BitVec.ofNat 64 (((List.range 4).map fun d => ((s.portLat c d).getD 0xFFFF) * 2 ^ (16 * d)).sum)

/-- `PORTQ` from queue lengths and credits (R446). -/
def portqWord (len credit : Nat → Nat) : Word :=
  BitVec.ofNat 64 (((List.range 4).map fun d => (credit d % 16 * 2 ^ 8 + len d % 16) * 2 ^ (16 * d)).sum)

/-- `OPP` (R503). -/
def State.oppWord (s : State) (c : CoreId) : Word :=
  let t := s.tile (s.tileOf c)
  let r := (s.core c).ctl.oppReq.toNat
  BitVec.ofNat 64 (flagAt (decide (t.thermal < r)) 18 + flagAt (decide (t.grant < r)) 17 + t.cur % 8 * 2 ^ 8 + r)

/-- `CAPBASE` (R45). -/
def CoreCtl.capWord (k : CoreCtl) : Word := BitVec.ofNat 64 (flagAt k.mirror 63 + k.capbase.toNat * 2 ^ 12)

/-- An entry of the logical-to-physical table (R510). -/
def LptEnt.word (e : LptEnt) : Word :=
  BitVec.ofNat 64 (flagAt e.ins 63 + flagAt e.rsv 62 + flagAt e.ret 61 + flagAt e.mov 60 + e.hlid.toNat * 2 ^ 32 +
    e.lid.toNat * 2 ^ 16 + e.temp.toNat * 2 ^ 8)

/-- `WP` as it was written last: a change that is still to be made, or whose store has been made, or the register (R31, R131; log 96). -/
def Scav.wpWritten (x : Scav) : Word :=
  match x.pendWp, x.win with
  | some v, _ => v
  | none, some w => match w.op, w.dests with | none, .pc v :: _ => v | _, _ => x.wp
  | none, none => x.wp

/-- The value of a control register as a thread of a core reads it. A `WP` reads as it was written last, also before its change has been made
(R131; log 96). -/
def State.readCtl (s : State) (c : CoreId) (t : Thr) (n : Nat) : Word :=
  let x := s.core c
  let p := x.prim
  if decide (0x040 ≤ n) && decide (n ≤ 0x047) then
    (vget x.scav (n - 0x040)).wpWritten
  else if decide (0x100 ≤ n) && decide (n ≤ 0x13F) then vget x.ctl.sbt (n - 0x100)
  else if decide (0x140 ≤ n) && decide (n ≤ 0x15F) then
    (if n % 2 = 0 then vget x.ctl.prb ((n - 0x140) / 2) else vget x.ctl.prp ((n - 0x140) / 2))
  else if decide (0x200 ≤ n) && decide (n ≤ 0x2C3) then (vget s.dies[(dieOf c).val].lpt (n - 0x200)).word
  else match n with
    | 0x000 => s.corid c t
    | 0x001 => BitVec.ofNat 64 (flagAt p.mxerr 1 + flagAt p.wawseen 0)
    | 0x002 => s.tscOf c
    | 0x003 => p.mfmt
    | 0x004 => (match t with | .prim => p.fpstat | .scav k => (s.scav c k).fpstat).setWidth 64
    | 0x005 => (match t with | .prim => p.fpxen | .scav k => (s.scav c k).fpxen).setWidth 64
    | 0x006 => x.ctl.qlimit.setWidth 64
    | 0x007 => x.ctl.felimit.setWidth 64
    | 0x008 => x.ctl.capWord
    | 0x009 => s.portLatWord c
    | 0x00A =>
      match t with
      | .prim => portqWord (fun d => (vget p.portq d).length) (fun d => vget p.credits d)
      | .scav k => portqWord (fun d => (vget (s.scav c k).portq d).length) (fun d => vget (s.scav c k).credits d)
    | 0x00B => s.oppWord c
    | 0x010 => BitVec.ofNat 64 (tagBits (match t with | .prim => p.tags.toList | .scav k => (s.scav c k).tags.toList))
    | 0x011 => BitVec.ofNat 64 (tagStatus (match t with
        | .prim => p.tags.toList.take 32 | .scav k => (s.scav c k).tags.toList))
    | 0x012 => BitVec.ofNat 64 (tagStatus (p.tags.toList.drop 32))
    | 0x021 => x.ctl.svrb
    | 0x022 => BitVec.ofNat 64 (x.ctl.svTail.toNat * 2 ^ 32 + x.ctl.svHead.toNat)
    | 0x023 => x.ctl.svent
    | 0x024 => BitVec.ofNat 64 (flagAt x.ctl.svAct 1 + flagAt x.ctl.svHold 0)
    | 0x025 => x.ctl.watcha
    | 0x026 => x.ctl.watchm
    | _ => 0

/-! ## Writes -/

/-- The execution fault of an `MTC` that the register's own rule raises: code, sub-cause and `INFO` (R46, R314, R367). -/
def State.mtcBad (s : State) (c : CoreId) (n : Nat) (w : Word) (words : Word) : Option (BitVec 8 × Word) :=
  if n = 0x008 then
    if Word.bits w 0 12 ≠ 0 ∨ 0x1EC < Word.bits w 12 9 then some (codeALIGN, w) else none
  else if decide (0x040 ≤ n) && decide (n ≤ 0x047) then
    if w.toNat % 8 ≠ 0 ∨ 2 ^ 21 < w.toNat + 264 then some (codeALIGN, w) else none
  else if n = 0x021 then
    let l := Word.bits w 0 4
    if decide (l < 4) || decide (12 < l) || decide (2 ^ 21 < Word.bits w 12 9 * 4096 + 64 * 2 ^ l) then some (codeILLOP, words)
    else none
  else if decide (0x100 ≤ n) && decide (n ≤ 0x13F) then
    let e := vget (s.core c).ctl.sbt (n - 0x100)
    match Word.bits w 56 2 with
    | 0 => none
    | 1 => if Word.bits w 8 4 = 15 ∨ e.getLsbD 62 then some (codeILLOP, words) else none
    | 2 => if e.getLsbD 62 then none else some (codeILLOP, words)
    | _ => some (codeILLOP, words)
  else none

/-- A block-table word from its fields (R313). -/
def sbtWord (v sp bsy : Bool) (sw pblk : Nat) : Word :=
  BitVec.ofNat 64 (flagAt v 63 + flagAt sp 62 + flagAt bsy 61 + sw % 16 * 2 ^ 8 + pblk % 64)

def State.setSbt (s : State) (c : CoreId) (i : Nat) (w : Word) : State :=
  s.modCtl c fun k => { k with sbt := vset k.sbt i w }

/-- Set `V` and `PBLK` of an entry (R314, `OP` 0). -/
def State.sbtMapTo (s : State) (c : CoreId) (i : Nat) (w : Word) : State :=
  let e := vget (s.core c).ctl.sbt i
  s.setSbt c i (sbtWord (w.getLsbD 63) (e.getLsbD 62) (e.getLsbD 61) (Word.bits e 8 4) (Word.bits w 0 6))

/-- Copy a block's bytes and full-empty bits from a key to another (R312, R314). -/
def State.copyBlock (s : State) (from_ to_ : Nat) : State :=
  let s := s.writeKey to_ (s.readKey from_ 32768)
  let kept := s.empty.filter fun d => decide (d < to_ / 8 ∨ to_ / 8 + 4096 ≤ d)
  let came := s.empty.filter fun d => decide (from_ / 8 ≤ d) && decide (d < from_ / 8 + 4096)
  { s with empty := came.foldl (fun l d => insertNat l (d - from_ / 8 + to_ / 8)) kept }

/-- Spill or fill a block: the copy between the physical block and the way that the write names, `BSY` for 512 cycles at 64 bytes a cycle,
and for a moved identity until the copy has crossed the mesh (R314, `OP` 1 and 2; R511). A spill withdraws the way from caching; its end
returns a filled block's way. -/
def State.sbtMove (s : State) (c : CoreId) (i : Nat) (w : Word) (spill : Bool) : State :=
  let e := vget (s.core c).ctl.sbt i
  let way := l2Key c (Word.bits w 8 4) 0
  let blk := Word.bits w 0 6 * 32768
  let s :=
    if spill then (s.modCore c fun x => x.withdrawWay (Word.bits w 8 4)).copyBlock (scratchKey c blk) way
    else (List.range 512).foldl (fun s j => s.markDirty c (blk + 64 * j)) (s.copyBlock way (scratchKey c blk))
  let s := s.setSbt c i (sbtWord (e.getLsbD 63) (e.getLsbD 62) true (Word.bits w 8 4) (Word.bits w 0 6))
  let s := s.usePorts c (s.clock c + 1) 64 [(blk, 32768)]
  let way := if s.xy c = s.vaultXY c then 0 else 9 + routeCost (s.xy c) (s.vaultXY c)
  s.after (512 + way) 0 .spillFillDone { EvArg.ofCore c with n := i, k := if spill then 1 else 0 }

/-- Discard a receive queue's values and return a credit for each (R446). -/
def State.flushPort (s : State) (c : CoreId) (t : Thr) (dir : Nat) : State :=
  match t with
  | .prim =>
    let n := (vget (s.prim c).portq dir).length
    (List.range n).foldl (fun s _ => s.returnCredit c t dir)
      (s.modPrim c fun p => { p with portq := vset p.portq dir [] })
  | .scav k =>
    let n := (vget (s.scav c k).portq dir).length
    (List.range n).foldl (fun s _ => s.returnCredit c t dir)
      (s.modScav c k fun p => { p with portq := vset p.portq dir [] })

/-- A write of `PORTQ` flushes the named queues (R446). -/
def State.writePortq (s : State) (c : CoreId) (t : Thr) (w : Word) : State :=
  (List.range 4).foldl (fun s d => if w.getLsbD (16 * d + 15) then s.flushPort c t d else s) s

/-- Fields of a word as a word. -/
def keepBits (w mask : Word) : Word := w &&& mask

/-- A change of `WP` by a write takes effect at the thread's next owned turn, in place of an operation (R31). -/
def State.setPendWp (s : State) (c : CoreId) (k : Fin 8) (w : Word) : State :=
  let s := s.dropItems fun i => i.what == .wpSwitch && i.arg.core == c && i.arg.thr == .scav k
  (s.modScav c k fun x => { x with pendWp := some w }).atTurn c k (s.clock c) 4 .wpSwitch

/-- A write of a control register takes effect: each register by its own rule; reserved bits are ignored (R45, R131). -/
def State.landCtl (s : State) (c : CoreId) (t : Thr) (n : Nat) (w : Word) : State :=
  if decide (0x040 ≤ n) && decide (n ≤ 0x047) then
    s.setPendWp c ⟨(n - 0x040) % 8, Nat.mod_lt _ (by decide)⟩ w
  else if decide (0x100 ≤ n) && decide (n ≤ 0x13F) then
    match Word.bits w 56 2 with
    | 0 => s.sbtMapTo c (n - 0x100) w
    | 1 => s.sbtMove c (n - 0x100) w true
    | _ => s.sbtMove c (n - 0x100) w false
  else if decide (0x140 ≤ n) && decide (n ≤ 0x15F) then
    s.modCtl c fun k =>
      if n % 2 = 0 then { k with prb := vset k.prb ((n - 0x140) / 2) (keepBits w 0x800001FF000001FF) }
      else { k with prp := vset k.prp ((n - 0x140) / 2) (keepBits w 0xFF) }
  else if decide (0x200 ≤ n) && decide (n ≤ 0x2C3) then
    if w.getLsbD 59 then s.after 0 2 .migrationRequest { EvArg.ofCore c with n := n - 0x200, k := 1 } else s
  else match n with
    | 0x001 => s.modPrim c fun p =>
        { p with wawseen := p.wawseen && !w.getLsbD 0, mxerr := p.mxerr && !w.getLsbD 1 }
    | 0x004 =>
      match t with
      | .prim => s.modPrim c fun p => { p with fpstat := w.setWidth 6 }
      | .scav k => s.modScav c k fun p => { p with fpstat := w.setWidth 6 }
    | 0x005 =>
      match t with
      | .prim => s.modPrim c fun p => { p with fpxen := w.setWidth 6 }
      | .scav k => s.modScav c k fun p => { p with fpxen := w.setWidth 6 }
    | 0x006 => s.modCtl c fun k => { k with qlimit := w.setWidth 32 }
    | 0x007 => s.modCtl c fun k => { k with felimit := w.setWidth 32 }
    | 0x008 => s.modCtl c fun k => { k with mirror := w.getLsbD 63, capbase := w.extractLsb' 12 9 }
    | 0x00A => s.writePortq c t w
    | 0x00B => s.modCtl c fun k => { k with oppReq := w.setWidth 3 }
    | 0x020 =>
      s.after 0 2 (if w.getLsbD 63 then .xwakeRefuse else .xwakeRetry) { EvArg.ofCore c with dw := keepBits w 0x00FFFFFFFFFF0000 }
    | 0x021 =>
      (s.modCtl c fun k => { k with svrb := keepBits w 0x80000000001FF00F }).after 0 2 .ringRecordWrite (EvArg.ofCore c)
    | 0x022 => (s.modCtl c fun k => { k with svHead := w.setWidth 16 }).after 0 2 .ringRecordWrite (EvArg.ofCore c)
    | 0x023 => s.modCtl c fun k => { k with svent := keepBits w 0xFFFFFFFFFFFFFFFC }
    | 0x024 => s.modCtl c fun k => { k with svHold := w.getLsbD 0 }
    | 0x025 => s.modCtl c fun k => { k with watcha := keepBits w 0xC0000000001FFFFF }
    | 0x026 => s.modCtl c fun k => { k with watchm := keepBits w 0x00000000001FFFFF }
    | _ => s

/-! ## Operations -/

/-- A privileged register, or a privileged write (R42). -/
def needsPriv (n : Nat) (write : Bool) : Bool :=
  match ctlAcc n with
  | some .pr => true
  | some .pw => write
  | _ => false

/-- `INFO` of an `ILLOP` at the operation in progress (R373). -/
def State.issWords (s : State) : Word := wordsInfo (s.core s.iss.core) s.iss.thr s.iss.waddr.toNat

/-- Read a control register (R131); `TSC` as the cycle of issue reads it (R133). -/
def execMfc (op : Op) (s : State) : Out :=
  perform op s fun s =>
    let n := op.x12.toNat
    if needsPriv n false && !s.privileged then s.raise codePROT 6 0 0
    else s.putS op 1 0 (if n = 0x002 then s.issueTsc else s.readCtl s.iss.core s.iss.thr n)

/-- Whether a number names a block-table entry with a spill or a fill in progress (R314). -/
def State.sbtBusy (s : State) (n : Nat) : Bool :=
  decide (0x100 ≤ n) && decide (n ≤ 0x13F) && (vget (s.core s.iss.core).ctl.sbt (n - 0x100)).getLsbD 61

/-- The rows of an `XCP2`: source, destination and length of each (R223). -/
def rowsOf (a b g : Word) : List (Nat × Nat × Nat) :=
  let len := Word.bits g 0 16
  if len = 0 then []
  else (List.range (Word.bits g 16 16)).map fun r =>
    ((b.toNat + 8 * Word.bits g 48 16 * r), (a.toNat + 8 * Word.bits g 32 16 * r), len)

/-- The local spans that an operation will still write: start and length (R222 to R226, R235, R238, R245, R254 to R262). -/
def Pend.owed (p : Pend) : List (Nat × Nat) :=
  let own := fun (l : List (Nat × Nat)) => l.filter fun q => decide (q.1 < 2 ^ 52)
  if p.performed && (p.kind == .xcp || p.kind == .xcp2 || p.kind == .xga || p.kind == .xsc || p.kind == .xkvg) then []
  else match p.kind with
  | .xcp => own [(p.a.toNat, p.c.toNat)]
  | .xcp2 => own ((rowsOf p.a p.b p.c).map fun r => (r.2.1, r.2.2))
  | .xga => [(p.a.toNat, Word.bits p.c 24 16 * 2 ^ (p.x12.toNat % 8))]
  | .xsc => if p.moves.isEmpty && decide (p.a.toNat < 2 ^ 52) then [(0, 2 ^ 21)] else own (p.moves.map fun m => (m.dst, m.len))
  | .xkvg => own (p.moves.map fun m => (m.dst, m.len))
  | .xcoll => [(p.a.toNat, Word.bits p.c 8 16 * 2 ^ p.esz.toNat)]
  | .ratom => if p.x12.getLsbD 4 then [] else [(p.c.toNat, 8)]
  | .rldf => [(p.c.toNat, 8)]
  | .launch => [(p.a.toNat + 0x38, 8)]
  | .kvmatch | .kvins => [(p.b.toNat, 8)]
  | .kvapp => [(p.c.toNat, 8 * p.b.toNat)]
  | .kvdem | .kvprom => [(p.c.toNat, 8)]
  | _ => []

/-- Whether an operation will still write a physical block, by the mapping of its issue (R220). -/
def Pend.writesBlock (p : Pend) (blk : Nat) : Bool :=
  p.owed.any fun q => q.2 != 0 && (List.range ((q.1 % 32768 + q.2 + 32767) / 32768)).any fun i =>
    (vget p.sbt (q.1 / 32768 + i)).toNat % 64 == blk

/-- Whether a spill must wait for an operation of a captured context that still writes its block (R382). -/
def State.spillHeld (s : State) (n : Nat) (w : Word) : Bool :=
  let x := s.core s.iss.core
  decide (0x100 ≤ n) && decide (n ≤ 0x13F) && Word.bits w 56 2 == 1 &&
    (x.qcp ++ x.qga ++ x.qco ++ x.qkv ++ x.inj).any fun p => p.prot && p.writesBlock (Word.bits w 0 6)

/-- Write a control register; a busy block-table entry holds the bundle (R314), as does a spill that must wait (R382). In flight with latency 1 on the primary (R131, R371), at once on a scavenger. -/
def execMtc (op : Op) (s : State) : Out :=
  perform op s fun s =>
    let n := op.x12.toNat
    let c := s.iss.core
    let x := s.srcS op.a op.la
    if needsPriv n true && !s.privileged then (State.oweBack s x.2).raise codePROT 6 0 0
    else
      if s.sbtBusy n || s.spillHeld n x.1 then s.block false s.qLimit codeQSTALL 7 else
      match s.mtcBad c n x.1 s.issWords with
      | some b => (State.oweBack s x.2).raise b.1 0 b.2 0
      | none =>
        match s.iss.thr with
        | .prim => x.2.fly { mkFlight s.iss.slot .ctl 0 false 1 false 0 (Word.toVec x.1) with creg := op.x12 }
        | .scav k => x.2.landCtl c (.scav k) n x.1

/-- `MFMT` after a shadow of four bundles (R132): a reserved value raises `ILLOP`. -/
def execMsetf (op : Op) (s : State) : Out :=
  perform op s fun s =>
    let x := s.srcS op.a op.la
    if (decodeMfmt x.1).isSome then
      x.2.fly (mkFlight s.iss.slot .mfmt 0 false 4 false 0 (Word.toVec x.1))
    else (State.oweBack s x.2).raise codeILLOP 0 s.issWords 0

/-- The time base in the cycle of issue (R133). -/
def execRdts (op : Op) (s : State) : Out := perform op s fun s => s.putS op 1 0 s.issueTsc

/-- What an earlier `RDRES` has read in place of the operation in progress: a scavenger's in the cycle of its turn, where its window holds the
value; a primary's of the same register in its bundle, whose reads come before the clear (R22, R134; DESIGN CHOICE, log 112). -/
def State.residueRead (s : State) (op : Op) : Option Word :=
  match s.iss.thr with
  | .scav _ => s.iss.got.head?.map Prod.snd
  | .prim => (s.iss.got.find? fun q => q.1 == BitVec.ofNat 6 (op.xbits 0 6)).map Prod.snd

/-- Read and clear a residue register (R134). -/
def execRdres (op : Op) (s : State) : Out :=
  perform op s fun s =>
    let k : Fin 8 := ⟨op.xbits 3 3 % 8, Nat.mod_lt _ (by decide)⟩
    let r := op.xbits 0 3
    match s.residueRead op with
    | some v => s.putS op 1 0 v
    | none =>
      let v := (vget (s.scav s.iss.core k).res r).setWidth 64
      let s := { s with iss := { s.iss with got := (BitVec.ofNat 6 (op.xbits 0 6), v) :: s.iss.got } }
      (s.modScav s.iss.core k fun x => { x with res := vset x.res r 0 }).putS op 1 0 v

end Sys2Proof.Machine
end

