-- ==== Sys2Proof/Machine/Vector.lean ====
section
/-! DEFINITION. Vector arithmetic, logic, compares, masks, conversions, reductions, movement, order keys and histograms
(R161 to R184, R187, R188). -/

namespace Sys2Proof.Machine

open Sys2Proof

/-! ## Operands, masks and results -/

/-- Type code 0 of the arithmetic rows (R163). -/
def arithDefault (e : BitVec 2) : Ty :=
  match e.toNat with | 0 => .i8 | 1 => .f16 | 2 => .f32 | _ => .f64
/-- Type code 0 of the rows where only the width matters (R163). -/
def widthDefault (e : BitVec 2) : Ty :=
  match e.toNat with | 0 => .n8 | 1 => .n16 | 2 => .n32 | _ => .n64

/-- The type of an operation of the common layout. -/
def arithTy (o : Op) : Ty := if o.tyCode = 0 then arithDefault o.esz else (tyOfCode o.tyCode).getD .f32
/-- The type of a logic operation. -/
def logicTy (o : Op) : Ty := if o.tyCode = 0 then widthDefault o.esz else (tyOfCode o.tyCode).getD .n32

/-- The register file as the bundle reads it. -/
def State.vregs (s : State) : Regs := (s.prim s.iss.core).regs

/-- The write mask named by `x12`[11:8] (R162). -/
def State.wmask (s : State) (o : Op) : Mask := s.vregs.rdK (BitVec.ofNat 6 (o.xbits 8 4))

/-- The mask bit that governs an element: that of its lowest byte (R40, R165). -/
def governs (k : Mask) (w e : Nat) : Bool := k.getLsbD (e * w / 8)

/-- The elements of the destination as read at operand read. -/
def State.oldElems (s : State) (o : Op) (w : Nat) : List Nat := Vec.elems w (s.vregs.rdV o.dst)

/-- Number the elements of a list. -/
def numbered {α : Type} (l : List α) : List (Nat × α) := (List.range l.length).zip l

/-- Merge results under a mask: element e of `new` where governed, else of `old` (R165). -/
def mergeE (k : Mask) (w : Nat) (old new : List Nat) : List Nat :=
  (numbered (old.zip new)).map fun p => if governs k w p.1 then p.2.2 else p.2.1

/-- Results of the live elements, with the union of their flags (R165, R167). -/
def liveRes (k : Mask) (w : Nat) (old : List Nat) (f : Nat → FRes) : List Nat × BitVec 6 :=
  (numbered old).foldr (fun p acc =>
    if governs k w p.1 then
      let r := f p.1
      (r.bits :: acc.1, acc.2 ||| r.flg)
    else (p.2 :: acc.1, acc.2)) ([], 0)

/-- Element e of a list; zero beyond it. -/
def el (l : List Nat) (e : Nat) : Nat := (l[e]?).getD 0

/-- The vector sources of an operation as elements of a width; `n` fields, in the order `a`, `b`, `c`. -/
def State.srcE (s : State) (o : Op) (n w : Nat) : List Nat × List Nat × List Nat × State :=
  let x := s.srcV o.a o.la (Op.xa o) w
  let y := if 2 ≤ n then x.2.srcV o.b o.lb (Op.xb o) w else (0, x.2)
  let z := if 3 ≤ n then y.2.srcV o.c o.lc (Op.xc o) w else (0, y.2)
  (Vec.elems w x.1, if 2 ≤ n then Vec.elems w y.1 else [], if 3 ≤ n then Vec.elems w z.1 else [], z.2)

/-- An elementwise operation under the write mask: `f` gives an element from the elements of its sources. -/
def lanewise (op : Op) (n w lat : Nat) (f : Nat → Nat → Nat → FRes) (s : State) : Out :=
  perform op s fun s =>
    let src := s.srcE op n w
    let r := liveRes (s.wmask op) w (s.oldElems op w) fun e => f (el src.1 e) (el src.2.1 e) (el src.2.2.1 e)
    State.finishFp s src.2.2.2 r.2 fun s => s.putV op lat r.2 (Vec.ofElems w r.1)

/-! ## Arithmetic (R169, R170) -/

/-- An integer result wraps modulo 2^w (R51). -/
def wrapRes (w : Nat) (v : Int) : FRes := FRes.of (wrapInt w v)

/-- Arithmetic on elements: the floating-point form of latency 4, or the integer form of latency 2. -/
def arithV (op : Op) (n : Nat) (ff : FFmt → FMode → FVal → FVal → FVal → FRes) (fi : Int → Int → Int → Int)
    (s : State) : Out :=
  let t := arithTy op
  if t.isFloat then
    let m := modeOf op t
    let g := operandF (fmtOf t) m.ftz
    lanewise op n t.width 4 (fun x y z => ff (fmtOf t) m (g x) (g y) (g z)) s
  else lanewise op n t.width 2 (fun x y z => wrapRes t.width (fi (intOf t x) (intOf t y) (intOf t z))) s

def execVadd (op : Op) (s : State) : Out := arithV op 2 (fun f m x y _ => sumF f m [x, y]) (fun x y _ => x + y) s
def execVsub (op : Op) (s : State) : Out := arithV op 2 (fun f m x y _ => sumF f m [x, y.negate]) (fun x y _ => x - y) s
def execVmul (op : Op) (s : State) : Out := arithV op 2 (fun f m x y _ => mulF f m x y) (fun x y _ => x * y) s
def execVfma (op : Op) (s : State) : Out := arithV op 3 (fun f m x y z => fmaF f m x y z) (fun x y z => x * y + z) s
def execVfms (op : Op) (s : State) : Out := arithV op 3 (fun f m x y z => fmaF f m x y z.negate) (fun x y z => x * y - z) s

/-- The extreme of two elements of a type (R126, R170). -/
def extremeE (t : Ty) (fl isMax : Bool) (x y : Nat) : FRes :=
  if t.isFloat then minmaxF (fmtOf t) fl isMax x y
  else if isMax then FRes.of (if intOf t x < intOf t y then y else x)
  else FRes.of (if intOf t y < intOf t x then y else x)

def execVmin (op : Op) (s : State) : Out :=
  lanewise op 2 (arithTy op).width (if (arithTy op).isFloat then 4 else 2)
    (fun x y _ => extremeE (arithTy op) (flushOf op) false x y) s
def execVmax (op : Op) (s : State) : Out :=
  lanewise op 2 (arithTy op).width (if (arithTy op).isFloat then 4 else 2)
    (fun x y _ => extremeE (arithTy op) (flushOf op) true x y) s

/-- Clear the sign bit of a float; |x| modulo 2^w of an integer (R170). -/
def execVabs (op : Op) (s : State) : Out :=
  let t := arithTy op
  lanewise op 1 t.width 2 (fun x _ _ =>
    if t.isFloat then FRes.of (x % 2 ^ (t.width - 1)) else wrapRes t.width ((intOf t x).natAbs : Int)) s
/-- Invert the sign bit of a float; 0 − x modulo 2^w of an integer (R170). -/
def execVneg (op : Op) (s : State) : Out :=
  let t := arithTy op
  lanewise op 1 t.width 2 (fun x _ _ =>
    if t.isFloat then FRes.of ((x + 2 ^ (t.width - 1)) % 2 ^ t.width) else wrapRes t.width (-(intOf t x))) s

/-! ## Logic and shifts (R171) -/

/-- An elementwise logic operation of latency 2. -/
def logicV (op : Op) (f : Nat → Nat → Nat → Nat) (s : State) : Out :=
  lanewise op 2 (logicTy op).width 2 (fun x y _ => FRes.of (f (logicTy op).width x y)) s

def execVand (op : Op) (s : State) : Out := logicV op (fun _ x y => x &&& y) s
def execVor (op : Op) (s : State) : Out := logicV op (fun _ x y => x ||| y) s
def execVxor (op : Op) (s : State) : Out := logicV op (fun _ x y => x ^^^ y) s
def execVshl (op : Op) (s : State) : Out := logicV op (fun w x m => if w ≤ m then 0 else x * 2 ^ m % 2 ^ w) s
def execVshr (op : Op) (s : State) : Out := logicV op (fun w x m => if w ≤ m then 0 else x / 2 ^ m) s
def execVsar (op : Op) (s : State) : Out :=
  logicV op (fun w x m => wrapInt w ((BitVec.ofNat w x).toInt / 2 ^ (min m w))) s

/-! ## Compares, selection and masks (R172 to R174) -/

/-- The byte bits of the elements that a list selects. -/
def maskOf (w : Nat) (l : List Bool) : Mask :=
  BitVec.ofNat 512 (ofLanes (w / 8) (l.map fun b => if b then 2 ^ (w / 8) - 1 else 0))

/-- A compare of two elements: the integer conditions of R108 on w-bit elements, or those of R127. -/
def compareE (t : Ty) (fl : Bool) (code x y : Nat) : Bool × BitVec 6 :=
  if t.isFloat then cmpF code (operandF (fmtOf t) fl x) (operandF (fmtOf t) fl y)
  else
    let a := BitVec.ofNat t.width x
    let b := BitVec.ofNat t.width y
    (match code with
      | 0 => a == b
      | 1 => a != b
      | 2 => a.slt b
      | 3 => !a.slt b
      | 4 => !b.slt a
      | 5 => b.slt a
      | 6 => a.ult b
      | 7 => !a.ult b
      | 8 => !b.ult a
      | _ => b.ult a, 0)

def execVcmp (op : Op) (s : State) : Out :=
  perform op s fun s =>
    let t := arithTy op
    let w := t.width
    let src := s.srcE op 2 w
    let k := s.wmask op
    let rs := (numbered (src.1.zip src.2.1)).map fun p =>
      if governs k w p.1 then compareE t (flushOf op) op.modifier p.2.1 p.2.2 else (false, 0)
    let flg := rs.foldl (fun a r => a ||| r.2) 0
    State.finishFp s src.2.2.2 flg fun s => s.putK op 2 flg (maskOf w (rs.map Prod.fst))

/-- The mask field selects and does not merge (R173). -/
def execVsel (op : Op) (s : State) : Out :=
  perform op s fun s =>
    let w := (logicTy op).width
    let src := s.srcE op 2 w
    src.2.2.2.putV op 2 0 (Vec.ofElems w (mergeE (s.wmask op) w src.2.1 src.1))

/-- The operators of R120 on every bit (R174). -/
def execKlog (op : Op) (s : State) : Out :=
  perform op s fun s =>
    let x := s.vregs.rdK op.a
    let y := s.vregs.rdK op.b
    let m : Mask := match op.modifier with
      | 0 => x &&& y
      | 1 => x ||| y
      | 2 => x ^^^ y
      | 3 => x &&& ~~~y
      | 4 => x ||| ~~~y
      | 5 => ~~~(x &&& y)
      | 6 => ~~~(x ||| y)
      | _ => ~~~(x ^^^ y)
    s.putK op 2 0 m

/-- The number of elements whose governing bit is 1 (R174). -/
def execVpopk (op : Op) (s : State) : Out :=
  perform op s fun s =>
    let w := eszWidth op.esz
    let k := s.vregs.rdK op.a
    s.putS op 2 0 (BitVec.ofNat 64 ((List.range (4096 / w)).filter fun e => governs k w e).length)

/-! ## Conversion and packing (R175 to R177) -/

/-- The types of a conversion: destination, source. -/
def convTys (o : Op) : Ty × Ty := ((tyOfCode o.modifier).getD .f32, (tyOfCode o.tyCode).getD .f32)

def execVcvt (op : Op) (s : State) : Out :=
  perform op s fun s =>
    let ty := convTys op
    let ws := ty.2.width
    let wd := ty.1.width
    let p := op.c.toNat
    let n := 4096 / max ws wd
    let src := s.srcE op 1 ws
    let k := s.wmask op
    let r := liveRes k wd (s.oldElems op wd) fun j =>
      if wd ≤ ws then
        if decide (p * n ≤ j) && decide (j < p * n + n) then convertBits op false ty.1 ty.2 (el src.1 (j - p * n))
        else FRes.of (el (s.oldElems op wd) j)
      else convertBits op false ty.1 ty.2 (el src.1 (p * n + j))
    State.finishFp s src.2.2.2 r.2 fun s => s.putV op 3 r.2 (Vec.ofElems wd r.1)

/-- Clamp to the range of a type. -/
def clampTo (t : Ty) (v : Int) : Int := max t.lo (min t.hi v)

def execVpack (op : Op) (s : State) : Out :=
  perform op s fun s =>
    let ty := convTys op
    let wd := ty.1.width
    let src := s.srcE op 2 ty.2.width
    let new := (src.1 ++ src.2.1).map fun x => wrapInt wd (clampTo ty.1 (intOf ty.2 x))
    src.2.2.2.putV op 3 0 (Vec.ofElems wd (mergeE (s.wmask op) wd (s.oldElems op wd) new))

def execVunpk (op : Op) (s : State) : Out :=
  perform op s fun s =>
    let ty := convTys op
    let wd := ty.1.width
    let n := 4096 / wd
    let src := s.srcE op 1 ty.2.width
    let new := ((src.1.drop (op.c.toNat * n)).take n).map fun x => wrapInt wd (intOf ty.2 x)
    src.2.2.2.putV op 3 0 (Vec.ofElems wd (mergeE (s.wmask op) wd (s.oldElems op wd) new))

/-! ## Reductions and scans (R178, R179) -/

/-- One combination of two elements by an operator (R178). -/
def combineE (op : Op) (t : Ty) (x y : Nat) : FRes :=
  match op.xbits 0 3 with
  | 0 =>
    if t.isFloat then
      let m := modeOf op t
      sumF (fmtOf t) m [operandF (fmtOf t) m.ftz x, operandF (fmtOf t) m.ftz y]
    else FRes.of ((x + y) % 2 ^ t.width)
  | 1 => extremeE t (flushOf op) false x y
  | 2 => extremeE t (flushOf op) true x y
  | 3 => FRes.of (x &&& y)
  | 4 => FRes.of (x ||| y)
  | _ => FRes.of (x ^^^ y)

/-- The identity of an operator (R178). -/
def identityE (op : Op) (t : Ty) : Nat :=
  let f := fmtOf t
  match op.xbits 0 3 with
  | 0 => if t.isFloat then f.signBit true else 0
  | 1 => if t.isFloat then f.infBits else wrapInt t.width t.hi
  | 2 => if t.isFloat then f.signBit true + f.infBits else wrapInt t.width t.lo
  | 3 => 2 ^ t.width - 1
  | _ => 0

/-- One level of the pairwise tree (R61). -/
def pairUp (f : Nat → Nat → FRes) : List Nat → List Nat × BitVec 6
  | x :: y :: l =>
    let r := f x y
    let t := pairUp f l
    (r.bits :: t.1, r.flg ||| t.2)
  | l => (l, 0)

/-- The pairwise tree of R61, level by level. -/
def treeOf (f : Nat → Nat → FRes) : Nat → List Nat → BitVec 6 → Nat × BitVec 6
  | 0, l, flg => (el l 0, flg)
  | n + 1, l, flg => let r := pairUp f l; treeOf f n r.1 (flg ||| r.2)

/-- The levels of the scan of R62: distances 2^d for d from `d` on. -/
def scanOf (f : Nat → Nat → FRes) : Nat → Nat → List Nat → BitVec 6 → List Nat × BitVec 6
  | 0, _, l, flg => (l, flg)
  | n + 1, d, l, flg =>
    let rs := List.zipWith f l (l.drop d)
    scanOf f n (2 * d) (l.take d ++ rs.map FRes.bits) (rs.foldl (fun a r => a ||| r.flg) flg)

/-- The elements of `a`, masked-off ones replaced by the identity. -/
def maskedIn (k : Mask) (w idn : Nat) (l : List Nat) : List Nat :=
  (numbered l).map fun p => if governs k w p.1 then p.2 else idn

def execVred (op : Op) (s : State) : Out :=
  perform op s fun s =>
    let t := arithTy op
    let w := t.width
    let src := s.srcE op 1 w
    let r := treeOf (combineE op t) (Nat.log2 (4096 / w)) (maskedIn (s.wmask op) w (identityE op t) src.1) 0
    let out := if t.isSigned then (BitVec.ofNat w r.1).signExtend 64 else BitVec.ofNat 64 r.1
    State.finishFp s src.2.2.2 r.2 fun s => s.putS op 6 r.2 out

def execVscan (op : Op) (s : State) : Out :=
  perform op s fun s =>
    let t := arithTy op
    let w := t.width
    let src := s.srcE op 1 w
    let idn := identityE op t
    let r := scanOf (combineE op t) (Nat.log2 (4096 / w)) 1 (maskedIn (s.wmask op) w idn src.1) 0
    let out := if op.x12.getLsbD 3 then idn :: r.1.dropLast else r.1
    State.finishFp s src.2.2.2 r.2 fun s => s.putV op 8 r.2 (Vec.ofElems w out)

/-! ## Permutation and movement (R180 to R184) -/

def execVperm (op : Op) (s : State) : Out :=
  perform op s fun s =>
    let w := (logicTy op).width
    let n := 4096 / w
    let src := s.srcE op 2 w
    let new := (List.range n).map fun e =>
      let i := el src.2.1 e
      el src.1 (if w = 8 then e / 256 * 256 + i else i % n)
    src.2.2.2.putV op 3 0 (Vec.ofElems w (mergeE (s.wmask op) w (s.oldElems op w) new))

def execVslide (op : Op) (s : State) : Out :=
  perform op s fun s =>
    let w := (logicTy op).width
    let n := 4096 / w
    let d := op.modifier + 1
    let src := s.srcE op 2 w
    let new := src.2.1.drop (n - d) ++ src.1.take (n - d)
    src.2.2.2.putV op 3 0 (Vec.ofElems w (mergeE (s.wmask op) w (s.oldElems op w) new))

def execVcompr (op : Op) (s : State) : Out :=
  perform op s fun s =>
    let w := (logicTy op).width
    let src := s.srcE op 1 w
    let k := s.wmask op
    let new := ((numbered src.1).filter fun p => governs k w p.1).map Prod.snd
    src.2.2.2.putV op 3 0 (Vec.ofElems w new)

/-- The element number of `VEXT` and `VINS`: field `b` 0 means no index register (R183); with its latch flag set it is the latch `lb0` of R76,
which is read as the index (DESIGN CHOICE, log 117). -/
def State.elemIndex (s : State) (op : Op) (w : Nat) : Nat :=
  ((if op.b = 0 && !op.lb then 0 else (s.valS op.b op.lb).toNat) + op.xbits 0 9) % 2 ^ 64 % (4096 / w)

def execVext (op : Op) (s : State) : Out :=
  perform op s fun s =>
    let w := eszWidth op.esz
    let src := s.srcE op 1 w
    src.2.2.2.putS op 3 0 (BitVec.ofNat 64 (el src.1 (s.elemIndex op w)))

def execVins (op : Op) (s : State) : Out :=
  perform op s fun s =>
    let w := eszWidth op.esz
    let x := (s.valS op.a op.la).toNat % 2 ^ w
    s.putV op 2 0 (Vec.ofElems w ((s.oldElems op w).set (s.elemIndex op w) x))

def execVmov (op : Op) (s : State) : Out :=
  lanewise op 1 (logicTy op).width 2 (fun x _ _ => FRes.of x) s

/-- `s[a]`[w−1:0] to every live element (R184). -/
def execVbcast (op : Op) (s : State) : Out :=
  perform op s fun s =>
    let w := (logicTy op).width
    let x := (s.valS op.a op.la).toNat % 2 ^ w
    s.putV op 2 0 (Vec.ofElems w (mergeE (s.wmask op) w (s.oldElems op w) (List.replicate (4096 / w) x)))

/-! ## Order keys and histograms (R187, R188) -/

/-- The key of a pattern, or the pattern of a key (R187). -/
def ordKey (t : Ty) (desc z inv : Bool) (x : Nat) : Nat :=
  let top := 2 ^ (t.width - 1)
  let no := fun (y : Nat) => 2 ^ t.width - 1 - y
  if !inv then
    let x := if t.isFloat && z && x == top then 0 else x
    let k := if t.isFloat then (if x < top then x ^^^ top else no x) else if t.isSigned then x ^^^ top else x
    if desc then no k else k
  else
    let x := if desc then no x else x
    if t.isFloat then (if top ≤ x then x ^^^ top else no x) else if t.isSigned then x ^^^ top else x

def execVord (op : Op) (s : State) : Out :=
  let t := arithTy op
  lanewise op 1 t.width 2
    (fun x _ _ => FRes.of (ordKey t (op.x12.getLsbD 0) (op.x12.getLsbD 1) (op.x12.getLsbD 2) x)) s

/-- Count one digit (R188). -/
def countIn (bins : List Nat) (d : Nat) : List Nat := bins.set d ((el bins d + 1) % 2 ^ 32)

/-- Digits counted (R188). A broadcast in field `b` is splat at the width of the keys, which `esz` gives (DESIGN CHOICE, log 118). -/
def execVhist (op : Op) (s : State) : Out :=
  perform op s fun s =>
    let w := eszWidth op.esz
    let keys := s.srcV op.a op.la (Op.xa op) w
    let bins := keys.2.srcV op.b op.lb (Op.xb op) w
    let k := s.vregs.rdK op.c
    let sh := op.xbits 0 6
    let bits := op.xbits 6 3 + 1
    let half := op.xbits 9 1
    let out := (numbered (Vec.elems w keys.1)).foldl (fun c p =>
      if governs k w p.1 then
        let d := p.2 / 2 ^ sh % 2 ^ bits
        if bits = 8 then (if d / 128 = half then countIn c (d % 128) else c) else countIn c d
      else c) (Vec.elems 32 bins.1)
    bins.2.putV op 6 0 (Vec.ofElems 32 out)

end Sys2Proof.Machine
end

