-- ==== Sys2Proof/Machine/Engine.lean ====
section
/-! DEFINITION. The issue of engine, injection-buffer and fence operations (R211 to R238), ports (R240 to R242), tag waits
(R244), launches, spawns, cancels and counter waits (R245 to R247). -/

namespace Sys2Proof.Machine

open Sys2Proof

/-! ## Checks (R214, R221) -/

/-- `ILLOP` of an operand value. -/
def State.illop (s : State) (b : Bool) : Option Bad := if b then some ⟨codeILLOP, 0, s.issWords, 0⟩ else none

/-- Alignment of an operand. -/
def alignBad (n : Nat) (a : Word) : Option Bad := if a.toNat % n = 0 then none else some ⟨codeALIGN, 0, a, 0⟩

/-- A local span checked for the issuing thread (R214 row 3, R316). -/
def State.locBad (s : State) (write : Bool) (a : Word) (len : Nat) : Option Bad :=
  if a.toNat / 2 ^ 52 ≠ 0 then some ⟨codePROT, 7, a, 0⟩
  else (spanProt (s.core s.iss.core).ctl s.iss.thr write a.toNat len).map fun f =>
    ⟨codePROT, f.2, BitVec.ofNat 64 f.1, 0⟩

/-- An address operand checked against its domains, and a local one against its span (R221). -/
def State.gloBad (s : State) (ds : List Nat) (write : Bool) (a : Word) (len : Nat) : Option Bad :=
  if !addrIn ds a then some ⟨codePROT, 7, a, 0⟩
  else if domOf a.toNat = 0 then s.locBad write a len else none

/-- Several checks in order. -/
def firstBad : List (Option Bad) → Option Bad
  | [] => none
  | b :: l => orBad b (firstBad l)

/-- The domains of the copy and gather operations (R221). -/
def copyDoms : List Nat := [0, 1, 2, 3, 4, 5, 6, 8]
/-- The domains of `RATOM` and `DECR`. -/
def atomDoms : List Nat := [0, 1, 2, 3, 4, 6, 8]

/-! ## Admission (R217 to R219) -/

def Core.queue (x : Core) : QKind → List Pend
  | .cp => x.qcp
  | .ga => x.qga
  | .co => x.qco
  | .kv => x.qkv
def Core.setQueue (x : Core) (q : QKind) (l : List Pend) : Core :=
  match q with
  | .cp => { x with qcp := l }
  | .ga => { x with qga := l }
  | .co => { x with qco := l }
  | .kv => { x with qkv := l }

/-- The places of a queue (R217, R251). -/
def QKind.size : QKind → Nat
  | .cp | .ga => 16
  | .co | .kv => 8
/-- The code of a queue in `INFO` (R373). -/
def QKind.code : QKind → Nat
  | .cp => 0
  | .ga => 1
  | .co => 2
  | .kv => 3

/-- A full queue: the primary's bundle is held; a scavenger's operation is not performed and issues again at its next turn
(R38 row 6, R219). -/
def State.denied (s : State) (info : Nat) : State :=
  match s.iss.thr with
  | .prim => s.block false s.qLimit codeQSTALL info
  | .scav k =>
    let h := (s.scav s.iss.core k).wait.getD ⟨s.clock s.iss.core, s.qLimit, codeQSTALL, info⟩
    if h.since + h.bound ≤ s.clock s.iss.core then s.expire codeQSTALL info
    else
      let s := { s with iss := { s.iss with again := true } }
      s.modScav s.iss.core k fun x =>
        { x with st := .ready, wait := some h, res := vset x.res 3 ((vget x.res 3) + (if vget x.res 3 = BitVec.allOnes 32 then 0 else 1)) }

/-- The pending operation of the issuing thread: its fields, and the mapping it resolves at issue (R220). -/
def State.pendOf (s : State) (op : Op) (kind : PKind) : Pend :=
  { s.newPend s.iss.core s.iss.thr kind with
    stamp := s.issueTsc, tag := op.dst.toNat, x12 := op.x12, esz := op.esz, a := s.valS op.a op.la, b := s.valS op.b op.lb, c := s.valS op.c op.lc }

/-- The item that starts a queue's head (R217). -/
def State.startHead (s : State) (c : CoreId) (q : QKind) (id d : Nat) : State :=
  s.after d 2 .queueEntryStart { argId c id with load := .queue q }

/-- How long after its issue an entry at the head starts: at once, but an `XKVG` and an entry of `Q.KV` in the next cycle, as R309
and R412 time them (log 11). -/
def Pend.lag (p : Pend) (q : QKind) : Nat := if q == .kv || p.kind == .xkvg then 1 else 0

/-- Enter a queue: the tag counts the operation, and an entry at the head starts (R215, R217). -/
def State.enterQ (s : State) (q : QKind) (p : Pend) : State :=
  let c := s.iss.core
  let x := s.core c
  let p := { p with id := x.nextId }
  let s := s.modCore c fun x => { x.setQueue q (x.queue q ++ [p]) with nextId := x.nextId + 1 }
  let s := s.modTag c p.thr p.tag Tag.issue
  if (x.queue q).isEmpty then s.startHead c q p.id (p.lag q) else s

/-- Issue into a queue under its checks (R214, R219). -/
def State.issueQ (s : State) (q : QKind) (bad : Option Bad) (p : Pend) : State :=
  s.checked bad fun s =>
    if q.size ≤ ((s.core s.iss.core).queue q).length then s.denied q.code else s.enterQ q p

/-- Enter the injection buffer (R218): the operation sets out for its home by `go`, which has the arguments of its step. -/
def State.inject (s : State) (bad : Option Bad) (p : Pend) (go : State → EvArg → State) : State :=
  s.checked bad fun s =>
    let c := s.iss.core
    let x := s.core c
    if 16 ≤ x.inj.length then s.denied 5
    else
      let p := { p with id := x.nextId }
      let s := s.modCore c fun x => { x with inj := x.inj ++ [p], nextId := x.nextId + 1 }
      go (s.modTag c p.thr p.tag Tag.issue) (argId c p.id)

/-- Whether the issuing thread's packets are of the primary class (R396). -/
def State.primClass (s : State) : Bool := s.iss.thr == .prim

/-- A packet of the issuing thread to an interface some cycles away. -/
def State.sendOut (s : State) (way prio : Nat) (what : Instr) (arg : EvArg) : State := s.sendClass s.primClass s.iss.core 1 way prio what arg

/-! ## Copies, gathers, scatters, collectives (R222 to R228) -/

def execXcp (op : Op) (s : State) : Out :=
  perform op s fun s =>
    let p := s.pendOf op .xcp
    let len := p.c.toNat
    s.issueQ .cp (firstBad [s.illop (decide (2 ^ 32 ≤ len)), s.gloBad copyDoms true p.a len, s.gloBad copyDoms false p.b len]) p

def execXcp2 (op : Op) (s : State) : Out :=
  perform op s fun s =>
    let p := s.pendOf op .xcp2
    let rows := rowsOf p.a p.b p.c
    let local_ := fun (write : Bool) (a : Word) (f : Nat × Nat × Nat → Nat) =>
      if domOf a.toNat = 0 then rows.findSome? fun r => s.locBad write (BitVec.ofNat 64 (f r)) r.2.2 else none
    s.issueQ .cp (firstBad [s.gloBad copyDoms true p.a 0, s.gloBad copyDoms false p.b 0,
      local_ true p.a (fun r => r.2.1), local_ false p.b (fun r => r.1)]) p

/-- The number of elements of an index descriptor (R224). -/
def idxCount (c : Word) : Nat := Word.bits c 24 16

/-- The checks of an index descriptor (R224). -/
def State.idxBad (s : State) (c : Word) : List (Option Bad) :=
  [s.illop (Word.bits c 21 3 != 0 || Word.bits c 40 24 != 0), alignBad 4 (c &&& 0x1FFFFF)]

def execXga (op : Op) (s : State) : Out :=
  perform op s fun s =>
    let p := s.pendOf op .xga
    let n := idxCount p.c
    s.issueQ .ga (firstBad (s.idxBad p.c ++
      [s.locBad true p.a (n * 2 ^ op.xbits 0 3), s.gloBad copyDoms false p.b 0, s.locBad false (p.c &&& 0x1FFFFF) (4 * n)])) p

def execXsc (op : Op) (s : State) : Out :=
  perform op s fun s =>
    let p := s.pendOf op .xsc
    let n := idxCount p.c
    s.issueQ .ga (firstBad (s.idxBad p.c ++
      [s.gloBad copyDoms true p.a 0, s.locBad false p.b (n * 2 ^ op.xbits 0 3), s.locBad false (p.c &&& 0x1FFFFF) (4 * n)])) p

/-- The type of a collective (R226). -/
def collTy (code : Nat) (e : BitVec 2) : Ty :=
  if code = 0 then (match e.toNat with | 0 => .i8 | 1 => .f16 | 2 => .f32 | _ => .i64) else (tyOfCode code).getD .i8

/-- The fields of a collective descriptor (R226). -/
def collGroup (c : Word) : Nat := Word.bits c 0 8
def collCount (c : Word) : Nat := Word.bits c 8 16
def collRoot (c : Word) : Nat := Word.bits c 24 10

/-- How many `XCOLL`s a member has issued on a group (R407), and one more. -/
def Group.count (g : Group) (c : CoreId) : Nat := ((g.issued.find? fun p => p.1 == c.val).map Prod.snd).getD 0
def Group.issue (g : Group) (c : CoreId) : Group :=
  { g with issued := (c.val, g.count c + 1) :: g.issued.filter fun p => p.1 != c.val }

/-- Take part in a collective; the use is numbered by the `XCOLL`s that the member issued on the group before (R407); count 0 is a barrier (R226, R228). -/
def execXcoll (op : Op) (s : State) : Out :=
  perform op s fun s =>
    let p := s.pendOf op .xcoll
    let n := collCount p.c * (eszWidth op.esz / 8)
    let al := eszWidth op.esz / 8
    let g := collGroup p.c
    let num := (s.group g).count s.iss.core
    let s1 := s.issueQ .co (firstBad [s.illop (Word.bits p.c 34 30 != 0 || (collCount p.c == 0 && op.x12 != 0)),
      alignBad al p.a, alignBad al p.b, s.locBad true p.a n, s.locBad false p.b n]) { p with ws := [BitVec.ofNat 64 num] }
    if (s1.core s.iss.core).qco.length = (s.core s.iss.core).qco.length then s1
    else s1.setGroup g ((s1.group g).issue s.iss.core)

/-! ## Fences and drains (R229 to R233) -/

/-- Order the thread's ordinary accesses: only a scavenger at `.til` or wider acts (R230). -/
def execFence (op : Op) (s : State) : Out :=
  perform op s fun s =>
    match s.iss.thr with
    | .prim => s
    | .scav k => if 2 ≤ op.xbits 0 3 then s.withRelease k true s.qLimit codeQSTALL fun s => s.invalidateClean s.iss.core else s

/-- Whether old bytes may still be read: by an operation of their thread that no `XDFENCE` precedes, or by an operation that
was incomplete when they were overwritten (R220). -/
def Core.mayRead (x : Core) (o : OldBytes) : Bool :=
  (o.thr.isSome && o.fenced.isNone) ||
    (x.qcp ++ x.qga ++ x.qco ++ x.qkv).any fun p => decide (p.id < max o.at_ (o.fenced.getD 0))

/-- Old bytes that nothing can read any more are forgotten. -/
def Core.forgetOld (x : Core) : Core := { x with oldBytes := x.oldBytes.filter x.mayRead }

/-- The operations that a thread issues from now on read its earlier stores (R220, R232). -/
def Core.fenceOld (x : Core) (t : Thr) : Core :=
  let mark := fun (o : OldBytes) => if o.thr == some t && o.fenced.isNone then { o with fenced := some x.nextId } else o
  Core.forgetOld { x with oldBytes := x.oldBytes.map mark }

/-- Hand effects between the domains: the thread's stores reach its later engine operations, and the writes of operations
whose tags it has observed are visible at once here; a scavenger at `.til` or wider writes its lines back, and after it, as after an acquire, no clean line is hit (R220, R232, R348). -/
def execXdfence (op : Op) (s : State) : Out :=
  perform op s fun s =>
    let hand := fun (s : State) => s.modCore s.iss.core fun x => x.fenceOld s.iss.thr
    match s.iss.thr with
    | .prim => hand s
    | .scav k => if 2 ≤ op.xbits 0 3 then s.withRelease k false s.qLimit codeQSTALL fun s => hand (s.invalidateClean s.iss.core) else hand s

/-- The queues of a set (R231). -/
def queueSet (m : Nat) : List QKind :=
  [(0, QKind.cp), (1, .ga), (2, .co), (3, .kv)].filterMap fun p => if m / 2 ^ p.1 % 2 = 1 then some p.2 else none

/-- Place join markers in the named queues that have a place: they wait for every entry that stands in any of them (R231). Answers the
markers' ids and the state. -/
def State.placeMarkers (s : State) (c : CoreId) (t : Thr) (m : Nat) : List Nat × State :=
  let x := s.core c
  let waits := (queueSet m).flatMap fun q => (x.queue q).map Pend.id
  (queueSet m).foldl (fun r q =>
    let x := r.2.core c
    if q.size ≤ (x.queue q).length then r else
    let p := { r.2.newPend c t .marker with tag := 64, waits := waits }
    let s := r.2.modCore c fun x => { x.setQueue q (x.queue q ++ [p]) with nextId := x.nextId + 1 }
    (r.1 ++ [p.id], if (x.queue q).isEmpty then s.startHead c q p.id 0 else s)) ([], s)

/-- Whether any of some entries still stands in a queue. -/
def Core.standing (x : Core) (ids : List Nat) : Bool :=
  (x.qcp ++ x.qga ++ x.qco ++ x.qkv).any fun p => ids.contains p.id

/-- The markers that the issuing thread's held `XFENCE.wait` has placed. -/
def State.marksOf (s : State) : List Nat :=
  match s.iss.thr with
  | .prim => (s.prim s.iss.core).marks
  | .scav k => (s.scav s.iss.core k).marks
def State.setMarks (s : State) (c : CoreId) (t : Thr) (l : List Nat) : State :=
  match t with
  | .prim => s.modPrim c fun p => { p with marks := l }
  | .scav k => s.modScav c k fun x => { x with marks := l }

/-- Join markers; with `.wait` the bundle is held until they pass (R231), which is at once where nothing stands in the named queues. A held primary's markers are placed when its bundle is
first held. -/
def execXfence (op : Op) (s : State) : Out :=
  perform op s fun s =>
    let c := s.iss.core
    let m := op.xbits 0 4
    let old := s.marksOf
    if m = 0 then s.raise codeILLOP 0 s.issWords 0
    else if old ≠ [] then
      if (s.core c).standing old then s.block false s.qLimit codeQSTALL 7 else s.setMarks c s.iss.thr []
    else
      match (queueSet m).find? fun q => decide (q.size ≤ ((s.core c).queue q).length) with
      | some q => s.denied q.code
      | none =>
        if !op.x12.getLsbD 4 then (s.placeMarkers c s.iss.thr m).2
        else if (queueSet m).all fun q => ((s.core c).queue q).isEmpty then s
        else match s.iss.thr with
          | .prim =>
            let s := { s with iss := { s.iss with marks := BitVec.ofNat 4 m } }
            s.block false s.qLimit codeQSTALL 7
          | .scav k =>
            let r := s.placeMarkers c (.scav k) m
            (r.2.setMarks c (.scav k) r.1).block false s.qLimit codeQSTALL 7

/-- Whether an operation of a thread is owed: one of its own that a captured context does not hold (R233). -/
def Core.owes (x : Core) (t : Thr) : Bool :=
  (x.qcp ++ x.qga ++ x.qco ++ x.qkv ++ x.inj).any fun p => p.thr == t && !p.prot && p.kind != .marker

/-- Wait for all of the thread's engine operations (R233). -/
def execDrain (op : Op) (s : State) : Out :=
  perform op s fun s =>
    if (s.core s.iss.core).owes s.iss.thr then s.block false s.qLimit codeQSTALL 7 else s

/-- `DRAIN`, and then the thread's writes to durable pages have reached the durability domain (R233). -/
def execPfence (op : Op) (s : State) : Out :=
  perform op s fun s =>
    let x := s.core s.iss.core
    if x.owes s.iss.thr || x.durUntil.any (fun d => d.1 == s.iss.thr && decide (s.cycle < d.2)) then
      s.block false s.qLimit codeQSTALL 7
    else s

/-! ## Remote atomics, counters, full-empty accesses (R235 to R238) -/

/-- Cycles to the home of an operation of the injection buffer: it reaches the own scratchpad through the network interface (R399). -/
def State.wayInj (s : State) (c : CoreId) (a : Nat) : Nat := match s.homeOf c a with | some h => s.wayTo c a h | none => 0


/-- A request sets out for the port of its home (R399); an own vault is reached and answered within its read term (R397). -/
def State.request (s : State) (a : Word) (what : Instr) (e : EvArg) : State :=
  match s.homeOf s.iss.core a.toNat with
  | some h => if s.wayTo s.iss.core a.toNat h = 0 then s.after (readTerm h - 1) 2 what e else s.sendOut (s.wayTo s.iss.core a.toNat h) 2 what e
  | none => s.after 1 2 what e

/-- The doubleword of a local address as the bundle reads it. -/
def State.localWord (s : State) (p : Nat) : Word := BitVec.ofNat 64 (s.load p 8)

/-- `ws` carries the operand and, for `.cas`, the new value read at the bundle (R235). -/
def execRatom (op : Op) (s : State) : Out :=
  perform op s fun s =>
    let p := s.pendOf op .ratom
    let n := eszWidth op.esz / 8
    let nd := op.x12.getLsbD 4
    let cas := op.modifier == 10
    let p := { p with ws := [p.b, if cas then s.localWord p.c.toNat else 0] }
    s.inject (firstBad [alignBad n p.a, if nd then none else alignBad 8 p.c,
      s.gloBad atomDoms false p.a n, s.gloBad atomDoms true p.a n,
      if nd then none else s.locBad true p.c 8, if cas then s.locBad false p.c n else none]) p fun s e => s.request p.a .ratomAtHome e

/-- The amount is `s[b]`, or 1 when field `b` is 0 (R237). -/
def execDecr (op : Op) (s : State) : Out :=
  perform op s fun s =>
    let p := s.pendOf op .decr
    let p := { p with ws := [if op.b = 0 && !op.lb then 1 else p.b] }
    s.inject (firstBad [alignBad 32 p.a, s.gloBad atomDoms false p.a 32, s.gloBad atomDoms true p.a 8]) p fun s e => s.request p.a .decrAtHome e

/-- The bound of the issuing thread travels with the request (R238). -/
def execRldf (op : Op) (s : State) : Out :=
  perform op s fun s =>
    let p := { s.pendOf op .rldf with bound := s.feLimit }
    s.inject (firstBad [alignBad 8 p.a, alignBad 8 p.c, s.gloBad [0, 1] false p.a 8, s.gloBad [0, 1] true p.a 8,
      s.locBad true p.c 8]) p fun s e => s.request p.a .fullEmptyRemoteArrival e

def execRstf (op : Op) (s : State) : Out :=
  perform op s fun s =>
    let p := { s.pendOf op .rstf with bound := s.feLimit, ws := [s.valS op.b op.lb] }
    s.inject (firstBad [alignBad 8 p.a, s.gloBad [0, 1] false p.a 8, s.gloBad [0, 1] true p.a 8]) p fun s e => s.request p.a .fullEmptyRemoteArrival e

/-! ## Messages and spawns (R236, R239, R246) -/

/-- The arguments read at the bundle: `n` doublewords, the rest zero. -/
def State.argsAt (s : State) (p n : Nat) : Vector Word 4 :=
  Vector.ofFn fun i => if i.val < n then s.localWord (p + 8 * i.val) else 0

/-- A message of the issuing thread. -/
def State.message (s : State) (target : Word) (args : Vector Word 4) (orig : BitVec 3) (ref : Nat) : Msg :=
  { target := target, args := args, stamp := s.issueTsc, src := BitVec.ofNat 10 s.iss.core.val, orig := orig, thr := s.iss.thr, ref := ref }

/-- The core to which a message goes (R236). -/
def Msg.dest (m : Msg) : CoreId := coreOfNat (Word.bits m.target 0 10)

/-- One way from the interface that sends a message to its core (R320, R399). -/
def State.mailWay (s : State) (m : Mail) : Nat :=
  match m.ni with
  | .core c => s.oneWay c m.msg.dest
  | .vault c => 9 + routeCost (s.vaultXY c) (s.xy m.msg.dest)
  | .terminus => s.toTerminus m.msg.dest
  | .peer => s.toTerminus m.msg.dest + 340 + Config.freeLatency s.free

/-- The core whose injection slot a message takes (R396). -/
def Sender.face : Sender → Option CoreId
  | .core c => some c
  | _ => none

/-- The messages of the same thread from the same interface to the same core that were sent before (R297). -/
def Core.ahead (x : Core) (thr : Thr) (m : Mail) : List Mail :=
  x.inj.filterMap fun q => if q.thr == thr then q.mail.filter fun n => decide (n.seq < m.seq) && n.ni == m.ni && n.msg.dest == m.msg.dest
    else none

/-- Whether a message must stay at its interface: an earlier one has been refused, or is held, and is not accepted yet (R297). -/
def Core.stays (x : Core) (thr : Thr) (m : Mail) : Bool := (x.ahead thr m).any fun n => n.refused || n.held

/-- A message leaves its interface, in the class of its thread (R396). -/
def State.postMail (s : State) (m : Mail) : State :=
  s.sendFace m.ni.face (m.msg.thr == .prim) 1 (max 1 (s.mailWay m)) 2 .messageArrival { EvArg.ofCore m.msg.dest with load := .msg m.msg }

/-- An entry of the injection buffer sends its message, or its interface holds it (R297). -/
def State.sendMail (s : State) (c : CoreId) (id : Nat) (ni : Sender) (msg : Msg) : State :=
  let x := s.core c
  let seq := x.inj.foldl (fun n q => max n ((q.mail.map Mail.seq).getD 0)) 0 + 1
  match x.inj.find? fun q => q.id == id with
  | none => s
  | some p =>
    let m : Mail := { ni := ni, seq := seq, msg := msg, refused := false, held := false, taken := false }
    let m := { m with held := x.stays p.thr m }
    let s := s.modCore c fun x => { x with inj := x.inj.map fun q => if q.id == id then { q with mail := some m } else q }
    if m.held then s else s.postMail m

def execSend (op : Op) (s : State) : Out :=
  perform op s fun s =>
    let k := op.xbits 0 3
    let p := s.pendOf op .send
    let dest := Word.bits p.a 0 10
    let args := s.argsAt p.b.toNat k
    let bad := firstBad [s.illop (Word.bits p.a 28 36 != 0 || !isCore dest), alignBad 8 p.b, s.locBad false p.b (8 * k)]
    s.inject bad { p with ws := args.toList } fun s e =>
      s.sendMail s.iss.core e.id (.core s.iss.core) (s.message p.a args 0 e.id)

/-- A message enters a deque: those of one cycle stand by rising logical core, and of one core in the order of issue (R302). -/
def enterDeque : List (Nat × Msg) → Nat → Msg → List (Nat × Msg)
  | [], t, m => [(t, m)]
  | q :: l, t, m => if q.1 = t ∧ m.src.toNat < q.2.src.toNat then (t, m) :: q :: l else q :: enterDeque l t m

/-- The entries of a tile's four positions. -/
def State.tileEnts (s : State) (t : Fin 196) : List LptEnt :=
  let l := (s.dies[t.val / 49]'(by have := t.isLt; omega)).lpt
  [0, 1, 14, 15].map fun o => vget l (t.val % 49 / 7 * 28 + t.val % 7 * 2 + o)

/-- The cores of a tile, rising. -/
def State.tileCores (s : State) (t : Fin 196) : List CoreId :=
  ((s.tileEnts t).foldl (fun l e => if isCore e.lid.toNat then insertNat l e.lid.toNat else l) []).map coreOfNat

/-- How many `SPAWN`s of scavengers of lower cores of a tile perform in this cycle and have not yet: their pushes enter first (R302). -/
def State.spawnsAhead (s : State) (c : CoreId) : Nat :=
  (((s.tileCores (s.tileOf c)).filter fun d => decide (d.val < c.val)).flatMap fun d => (List.finRange 8).filter fun k =>
    ((s.scav d k).win.any fun w => !w.done && w.todo.isEmpty && w.extra == 0 && w.op.any fun o => match o.instr with | .spawn _ => true | _ => false) &&
      s.agenda.any fun i => i.what == .scavengerAccessRetry && i.arg.core == d && i.arg.thr == .scav k && decide (i.due ≤ s.cycle)).length

/-- Push a message into the tile's deque (R246, R302). -/
def execSpawn (op : Op) (s : State) : Out :=
  perform op s fun s =>
    let k := op.xbits 0 3
    let t := s.valS op.a op.la
    let b := s.valS op.b op.lb
    let args := s.argsAt b.toNat k
    let tile := s.tileOf s.iss.core
    s.checked (firstBad [s.illop (Word.bits t 28 36 != 0 || Word.bits t 0 10 != 0), alignBad 8 b, s.locBad false b (8 * k)]) fun s =>
      if 64 ≤ (s.tile tile).deque.length ∨ (40 ≤ (s.tile tile).deque.length ∧ 64 ≤ (s.tile tile).deque.length + s.spawnsAhead s.iss.core) then
        s.denied 6
      else
        let s := s.modTile tile fun x => { x with deque := enterDeque x.deque s.cycle (s.message t args 2 0) }
        let s := s.modTag s.iss.core s.iss.thr op.dst.toNat fun g => (g.issue).complete 0 s.tsc s.cycle
        s.after 0 3 .dispatch (EvArg.ofCore s.iss.core)

/-! ## Neighbour ports (R240 to R242, R443 to R445) -/

/-- How many credits a thread holds towards a direction. -/
def State.credit (s : State) (c : CoreId) (t : Thr) (dir : Nat) : Nat :=
  match t with
  | .prim => vget (s.prim c).credits dir
  | .scav k => vget (s.scav c k).credits dir

/-- Send a value to the neighbour: one credit goes, and the value can be popped Lat cycles on (R443). -/
def State.pushTo (s : State) (dir : Nat) (v : Payload) (w : Word) : State :=
  let c := s.iss.core
  let t := s.iss.thr
  let s := match t with
    | .prim => s.modPrim c fun p => { p with credits := vset p.credits dir (vget p.credits dir - 1) }
    | .scav k => s.modScav c k fun p => { p with credits := vset p.credits dir (vget p.credits dir - 1) }
  match s.neighbour c dir, s.portLat c dir with
  | some d, some l => s.after l 0 .portValueArrival { EvArg.ofCore d with thr := t, k := opposite dir, load := v, dw := w }
  | _, _ => s

/-- Read field `a` and send it. -/
def State.pushA (s : State) (op : Op) (dir : Nat) : State :=
  match s.iss.thr with
  | .prim =>
    let v := s.srcV op.a op.la op.xa 64
    v.2.pushTo dir (.vec v.1) 0
  | .scav _ =>
    let v := s.srcS op.a op.la
    v.2.pushTo dir .none v.1

/-- A port operation on an open direction raises `NOPORT` (R214 row 4, R441). -/
def State.withPort (s : State) (dir : Nat) (f : State → State) : State :=
  match s.neighbour s.iss.core dir with
  | none => s.raise codeNOPORT 0 (BitVec.ofNat 64 dir) 0
  | some _ => f s

def execPush (op : Op) (s : State) : Out :=
  performBare op s fun s =>
    let dir := op.xbits 0 2
    s.withPort dir fun s => s.withPops op fun s =>
      if s.credit s.iss.core s.iss.thr dir = 0 then s.block false s.qLimit codePORTSTALL dir else s.pushA op dir

/-- Pop the head of a queue into `dst`. -/
def State.popTo (s : State) (op : Op) (dir : Nat) : State :=
  match s.iss.thr with
  | .prim =>
    let v := s.popPrim s.iss.core dir
    v.2.putV op 2 0 v.1
  | .scav k =>
    let v := s.popScav s.iss.core k dir
    v.2.putH k op.dst v.1 0

def execPop (op : Op) (s : State) : Out :=
  performBare op s fun s =>
    let dir := op.xbits 0 2
    s.withPort dir fun s =>
      if s.queued s.iss.core s.iss.thr dir = 0 then s.block false s.qLimit codePORTSTALL dir else s.popTo op dir

/-- Push if there is a credit, and a value for each pop that `a` names; report it (R242). -/
def execPusht (op : Op) (s : State) : Out :=
  performBare op s fun s =>
    let dir := op.xbits 0 2
    s.withPort dir fun s =>
      match (popDirs op).find? fun d => (s.neighbour s.iss.core d).isNone with
      | some d => s.raise codeNOPORT 0 (BitVec.ofNat 64 d) 0
      | none =>
        let ok := s.credit s.iss.core s.iss.thr dir != 0 &&
          (popDirs op).all fun d => s.queued s.iss.core s.iss.thr d != 0
        if ok then (s.pushA op dir).putP op.dst 0 true else s.putP op.dst 0 false

/-- Pop if a value waits, and report it in the register of `x12`[8:4] (R242). -/
def execPopt (op : Op) (s : State) : Out :=
  performBare op s fun s =>
    let dir := op.xbits 0 2
    let reg := BitVec.ofNat 6 (op.xbits 4 5)
    s.withPort dir fun s =>
      if s.queued s.iss.core s.iss.thr dir = 0 then s.putP reg 0 false else (s.popTo op dir).putP reg 0 true

/-! ## Tags (R244) -/

/-- The tags of the issuing thread. -/
def State.tagsOf (s : State) : List Tag :=
  match s.iss.thr with
  | .prim => (s.prim s.iss.core).tags.toList
  | .scav k => (s.scav s.iss.core k).tags.toList

/-- The masked tags, lowest first, with their numbers. -/
def maskedTags (m : Word) (l : List Tag) : List (Nat × Tag) := (numbered l).filter fun p => m.getLsbD p.1

/-- A mask that a scavenger may not name (R244). -/
def State.maskBad (s : State) (m : Word) : Bool :=
  match s.iss.thr with
  | .prim => false
  | .scav _ => decide (256 ≤ m.toNat)

def execTwaita (op : Op) (s : State) : Out :=
  perform op s fun s =>
    let m := s.valS op.a op.la
    s.checked (s.illop (s.maskBad m)) fun s =>
      if (maskedTags m s.tagsOf).all fun p => p.2.ready then s else s.block false s.qLimit codeQSTALL 7

def execTwaity (op : Op) (s : State) : Out :=
  perform op s fun s =>
    let m := s.valS op.a op.la
    s.checked (s.illop (s.maskBad m || m == 0)) fun s =>
      match (maskedTags m s.tagsOf).find? fun p => p.2.ready with
      | some p => s.putS op 1 0 (BitVec.ofNat 64 p.1)
      | none => s.block false s.qLimit codeQSTALL 7

def execTfind (op : Op) (s : State) : Out :=
  perform op s fun s =>
    let m := s.valS op.a op.la
    s.checked (s.illop (s.maskBad m)) fun s =>
      match (maskedTags m s.tagsOf).find? fun p => p.2.ready with
      | some p => s.putS op 1 0 (BitVec.ofNat 64 p.1)
      | none => s.putS op 1 0 (BitVec.ofNat 64 s.tagsOf.length)

/-- Clear the masked tags that have no outstanding operation (R244). A completion of this cycle comes after it (R215). -/
def Tag.clearIdle (t : Tag) (cycle : Nat) : Tag :=
  if t.count = 0 ∧ t.doneAt ≠ cycle + 1 then { t with ready := false, status := 0 } else t

def execTclr (op : Op) (s : State) : Out :=
  perform op s fun s =>
    let m := s.valS op.a op.la
    s.checked (s.illop (s.maskBad m)) fun s =>
      (maskedTags m s.tagsOf).foldl (fun s p => s.modTag s.iss.core s.iss.thr p.1 fun t => t.clearIdle s.cycle) s

/-! ## Work (R245, R247, R491) -/

/-- The levels of R247 by code, and the number of ids of each. -/
def levelOf (n : Nat) : Level :=
  match n with | 0 => .launch | 1 => .graph | 2 => .phase | _ => .job
def Level.ids : Level → Nat
  | .launch => 4096
  | .graph => 1024
  | .phase => 256
  | .job => 64

/-- The die whose Roundhouse holds a record (R488). -/
def dieOfRec (l : Level) (id : Nat) : Fin 4 := ⟨id / (l.ids / 4) % 4, Nat.mod_lt _ (by decide)⟩

/-- The outcome that `CNTW` reports (R491). -/
def WRec.outcome (r : WRec) : Nat := if r.err then 3 else r.can.toNat

/-- Wait for a record's completion (R247, R491), which reaches the core after its way from the Roundhouse (R479). -/
def execCntw (op : Op) (s : State) : Out :=
  perform op s fun s =>
    let id := s.valS op.a op.la
    let l := levelOf (op.xbits 0 2)
    s.checked (s.illop (decide (l.ids ≤ id.toNat))) fun s =>
      match s.wrec l id.toNat with
      | none => s.putS op 1 0 0
      | some r =>
        if r.done ∧ r.doneAt + s.toRoundhouse s.iss.core (dieOfRec l id.toNat) ≤ s.cycle then s.putS op 1 0 (BitVec.ofNat 64 r.outcome)
        else s.block false s.qLimit codeQSTALL 7

/-- The die of a launch descriptor's first core (R488): the lowest core of the set. -/
def firstDie (cores : BitVec 1024) : Fin 4 :=
  match (membersOf cores).head? with
  | some c => dieOf (coreOfNat c)
  | none => 0

/-- The mask of the cores `FIRST` to `LAST`. -/
def rangeMask (first last : Nat) : BitVec 1024 :=
  BitVec.ofNat 1024 ((2 ^ (last + 1 - first) - 1) * 2 ^ first)

/-- The core set of a descriptor, or none when its mask cannot be read (R495): its words, and the check and the bytes of a
local mask. -/
def descCores (ws : List Word) (maskOk : Bool) (mask : Nat) : Option (BitVec 1024) :=
  let w2 := (ws[2]?).getD 0
  if w2.getLsbD 63 then if maskOk then some (BitVec.ofNat 1024 mask) else none
  else some (rangeMask (Word.bits w2 16 10) (Word.bits w2 32 10))

/-- Submit a launch descriptor (R245, R495): descriptor and mask are read at the bundle; the eight words, a word that says
whether the mask could be read, and the mask travel to the Roundhouse. -/
def execLaunch (op : Op) (s : State) : Out :=
  perform op s fun s =>
    let p := s.pendOf op .launch
    let at_ := p.a.toNat
    let ws := (List.range 8).map fun i => s.localWord (at_ + 8 * i)
    let madr := (ws[5]?).getD 0
    let maskOk := madr.toNat % 8 == 0 && (s.locBad false madr 128).isNone
    let maskWs := (List.range 16).map fun i => if maskOk then s.localWord (madr.toNat + 8 * i) else 0
    let p := { p with ws := ws ++ [if maskOk then 1 else 0] ++ maskWs }
    let cores := (descCores ws maskOk (bytesToNat (maskWs.flatMap fun w => natToBytes 8 w.toNat))).getD 0
    s.inject (firstBad [alignBad 64 p.a, s.locBad false p.a 64, s.locBad true (p.a + 0x38) 8]) p fun s e =>
        s.sendOut (s.toRoundhouse s.iss.core (firstDie cores)) 2 .launchAllocation e

/-- Cancel a work record (R247, R494). -/
def execCancel (op : Op) (s : State) : Out :=
  perform op s fun s =>
    let p := s.pendOf op .cancel
    let l := levelOf (op.xbits 0 2)
    s.inject (s.illop (decide (l.ids ≤ p.a.toNat))) p fun s e =>
      s.sendOut (s.toRoundhouse s.iss.core (dieOfRec l (p.a.toNat))) 2 .cancelApply e

end Sys2Proof.Machine
end

