-- ==== Sys2Proof/Machine/Landing.lean ====
section
/-! DEFINITION. Landings of exposed results (R19 to R27, R130 to R132, R371): a tick of the countdowns, the registers and
latches that results reach, same-cycle landings, and the drain wait (R21, R29). -/

namespace Sys2Proof.Machine

open Sys2Proof

/-- One count less; a count of zero stays. -/
def Flight.dec (f : Flight) : Flight := { f with lcd := f.lcd - 1, rcd := f.rcd - 1 }

/-- The result reaches its register with this tick. -/
def Flight.toReg (f : Flight) : Bool := f.rcd == 1
/-- The result reaches its latch with this tick. -/
def Flight.toLatch (f : Flight) : Bool := f.lcd == 1
/-- A result stays in flight while either count is not zero. -/
def Flight.stays (f : Flight) : Bool := f.rcd != 0 || f.lcd != 0
/-- Its flags are ored into `FPSTAT` with this tick: with the register, or with the latch of a latch-only result (R130). -/
def Flight.flagsNow (f : Flight) : Bool := if f.nw then f.toLatch else f.toReg

/-- A landing that writes nothing: `s0`, `p0`, `k0` (R27). -/
def Flight.isNull (f : Flight) : Bool :=
  match f.file with
  | .s | .p | .k => f.reg == 0
  | _ => false

/-- Whether two results have one destination (R27): the predicates of R121 form 2 include `p1` to `p15`. -/
def Flight.clashes (f g : Flight) : Bool :=
  match f.file, g.file with
  | .pAll, .pAll | .pAll, .p | .p, .pAll | .mfmt, .mfmt => true
  | .tileHalf, .tileHalf => f.reg == g.reg && f.half == g.half
  | .ctl, .ctl => f.creg == g.creg
  | x, y => x == y && f.reg == g.reg

/-- Whether two results of a list have one destination. -/
def anyClash : List Flight → Bool
  | [] => false
  | f :: l => l.any (fun g => f.clashes g) || anyClash l

/-- A result enters its register (R371); a control register is written under its own rule. -/
def State.landReg (s : State) (c : CoreId) (f : Flight) : State :=
  match f.file with
  | .s => s.modRegs c fun r => r.wrS f.reg (f.val.setWidth 64)
  | .p => s.modRegs c fun r => r.wrP f.reg.toNat (f.val.getLsbD 0)
  | .v => s.modRegs c fun r => r.wrV f.reg f.val
  | .k => s.modRegs c fun r => r.wrK f.reg (f.val.setWidth 512)
  | .tileHalf => s.modRegs c fun r => r.wrHalf f.reg.toNat f.half f.val
  | .mfmt => s.modPrim c fun p => { p with mfmt := f.val.setWidth 64 }
  | .pAll => s.modRegs c fun r => { r with p := (f.val.setWidth 16 &&& 0xFFFE) ||| (r.p &&& 1) }
  | .ctl => s.landCtl c .prim f.creg.toNat (f.val.setWidth 64)

/-- The registers of one tick: in slot order, and in issue order within a slot, so that the last one stands (R27). -/
def State.landRegs (s : State) (c : CoreId) : List Flight → State
  | [] => s
  | f :: l => State.landRegs (s.landReg c f) c l

/-- Of several writes of one control register only the last acts: it alone stands (R27, R131). -/
def lastWrites : List Flight → List Flight
  | [] => []
  | f :: l => if l.any fun g => g.creg == f.creg then lastWrites l else f :: lastWrites l

/-- The latches of one tick. A result for `s0`, `k0` or another name whose landing writes nothing enters its slot's latch all the same
(log 98). -/
def Regs.landLatches (r : Regs) : List Flight → Regs
  | [] => r
  | f :: l => Regs.landLatches (r.wrLatch f.slot f.val) l

/-- The file of R270 and the number of the register that a result is written to. -/
def Flight.place (f : Flight) : Option (Nat × Nat) :=
  match f.file with
  | .s => some (0, f.reg.toNat)
  | .p => some (1, f.reg.toNat)
  | .v => some (2, f.reg.toNat)
  | .k => some (3, f.reg.toNat)
  | _ => none

/-- Whether the landings of one tick write a register, named by its selector, whole: it holds no error then (R514). -/
def rewrites (regs latches : List Flight) (sel : Word) : Bool :=
  regs.any (fun f => f.place == some (selFile sel, selNum sel) || (f.file == .pAll && selFile sel == 1 && selNum sel != 0)) ||
    latches.any fun f => selFile sel == 6 && selNum sel == f.slot

/-- The flags of several results. -/
def flagsOf (l : List Flight) : BitVec 6 := l.foldl (fun a f => a ||| f.flg) 0

/-- One tick of a primary's countdowns (R19, R21, R24, R27): control registers first, then registers, latches and flags. -/
def State.tick (s : State) (c : CoreId) : State :=
  let fl := slotOrder (s.prim c).flight
  let regs := (fl.filter Flight.toReg).filter fun f => !f.isNull
  let s := s.modPrim c fun p =>
    { p with flight := (p.flight.map Flight.dec).filter Flight.stays, spacing := p.spacing - 1 }
  let s := s.landRegs c (lastWrites (regs.filter fun f => f.file == .ctl))
  let s := s.landRegs c (regs.filter fun f => f.file != .ctl)
  s.modPrim c fun p =>
    { p with regs := p.regs.landLatches (fl.filter Flight.toLatch)
             fpstat := p.fpstat ||| flagsOf (fl.filter Flight.flagsNow)
             wawseen := p.wawseen || anyClash regs
             regErr := p.regErr.filter fun e => !rewrites regs (fl.filter Flight.toLatch) e }

/-- The control registers that a bundle finds written take their writes when it is first tried, once, whether or not it is then held
(R131, R446, R448). -/
def State.landCtlNow (s : State) (c : CoreId) : State :=
  let isNow := fun (f : Flight) => f.file == .ctl && f.rcd == 1
  let ctl := (slotOrder (s.prim c).flight).filter isNow
  ((s.modPrim c fun p => { p with flight := p.flight.filter fun f => !isNow f }).landRegs c (lastWrites ctl)).modPrim c fun p =>
    { p with wawseen := p.wawseen || anyClash ctl }

/-- The longest countdown in flight. -/
def Prim.longest (p : Prim) : Nat := p.flight.foldl (fun a f => max a (max f.lcd f.rcd)) 0

/-- How many cycles a drain wait takes before the next bundle, whose own issue lands the last results (R29). -/
def Prim.drainLen (p : Prim) : Nat := p.longest - 1

/-- Whether a primary's cycles count as drain-wait cycles now (R21): a drain wait, or the wait for a body entry (R110). -/
def Prim.waitsDraining (p : Prim) : Bool := p.mode == .drain || p.mode == .entering

/-- Drop the drain-wait cycles still due of a primary. -/
def State.stopTicks (s : State) (c : CoreId) : State :=
  s.dropItems fun i => i.what == .resultLanding && i.arg.core == c

/-- A drain-wait cycle is due in the next cycle. -/
def State.startTicks (s : State) (c : CoreId) : State := (s.stopTicks c).after 1 2 .resultLanding (EvArg.ofCore c)

/-- A cycle of a drain wait: the countdowns advance, and another such cycle follows while results are in flight (R21, R29).
The bundle that ends the wait drops the cycle that is due (`State.stopTicks`). -/
def execResultLanding (s : State) : Out :=
  let c := s.evt.core
  if (s.prim c).waitsDraining then
    let s := s.tick c
    .next (if (s.prim c).flight.isEmpty && (s.prim c).spacing = 0 then s else s.startTicks c)
  else .next s

end Sys2Proof.Machine
end

