-- ==== Sys2Proof/Decode.lean ====
section
/-! DEFINITION. The decoder: from the 32-bit words of a bundle to operations or named encoding faults (R67 to R93), total
on any words; and the encoder, from the same layouts. -/

namespace Sys2Proof

/-- The encoding faults that the words alone decide (R90). -/
inductive EncCode where
  | resmaj
  | illop
  | orphan
  | slotclash
  deriving DecidableEq, Repr

/-- The order of encoding faults at equal addresses (R90). -/
def EncCode.rank : EncCode → Nat
  | .resmaj => 0
  | .illop => 1
  | .orphan => 2
  | .slotclash => 3

/-- The word types of R67. -/
inductive WordType where
  | compact
  | head
  | pre
  | tail
  deriving DecidableEq, Repr

/-- The type of a word, from its two low bits (R67). -/
def wordType (w : IWord) : WordType :=
  if w.extractLsb' 0 2 == 0#2 then .compact
  else if w.extractLsb' 0 2 == 1#2 then .head
  else if w.extractLsb' 0 2 == 2#2 then .pre
  else .tail

/-- The start flag S (R67). A tail has none. -/
def startsBundle (w : IWord) : Bool := wordType w != .tail && w.getLsbD 2

/-- Bits [8:3]: the major opcode, or the kind of a prefix. -/
def majorOf (w : IWord) : Nat := (w.extractLsb' 3 6).toNat

/-- The class of a major opcode (R92); a reserved major has none. -/
def majorClass (ma : Nat) : Option OpClass :=
  match ma with
  | 0x00 => some .b
  | 0x01 => some .b
  | 0x02 => some .b
  | 0x03 => some .b
  | 0x08 => some .s
  | 0x09 => some .s
  | 0x0A => some .s
  | 0x0B => some .s
  | 0x0C => some .s
  | 0x0D => some .s
  | 0x0E => some .s
  | 0x0F => some .s
  | 0x10 => some .s
  | 0x14 => some .l
  | 0x15 => some .l
  | 0x16 => some .l
  | 0x17 => some .l
  | 0x18 => some .l
  | 0x19 => some .l
  | 0x1A => some .l
  | 0x1B => some .l
  | 0x1C => some .v
  | 0x1D => some .v
  | 0x1E => some .v
  | 0x1F => some .v
  | 0x20 => some .v
  | 0x21 => some .v
  | 0x22 => some .v
  | 0x24 => some .v
  | 0x25 => some .v
  | 0x2C => some .m
  | 0x2D => some .m
  | 0x2E => some .m
  | 0x2F => some .m
  | 0x30 => some .x
  | 0x31 => some .x
  | 0x32 => some .x
  | 0x33 => some .x
  | 0x34 => some .x
  | 0x35 => some .x
  | 0x36 => some .x
  | 0x37 => some .x
  | 0x38 => some .s
  | 0x39 => some .x
  | 0x3A => some .x
  | _ => none

/-- The operation of a major and a minor opcode (R92). `ADDI` has no minor (R70). -/
def instrOf (ma mi : Nat) (o : Op) : Option Instr :=
  let pick (l : List (Op → Instr)) : Option Instr := (l[mi]?).map (fun f => f o)
  match ma with
  | 0x00 => pick [.br, .brp, .loop]
  | 0x01 => pick [.bri, .call, .calli, .ret]
  | 0x02 => pick [.brc]
  | 0x03 => pick [.tend, .trap, .sys, .nopb, .eret]
  | 0x08 => pick [.add, .sub, .and, .or, .xor, .andn, .min, .max, .minn, .maxn]
  | 0x09 => pick [.shl, .shr, .sar, .rotl, .clz, .ctz, .popc, .ext, .ins]
  | 0x0A => pick [.mul, .mulh, .mulhn, .div, .divn, .rem, .remn]
  | 0x0B => pick [.addi]
  | 0x0C => pick [.movi, .movhi]
  | 0x0D => pick [.cmp, .cmpi, .plog, .pmov, .sel]
  | 0x0E => pick [.fadd, .fsub, .fmul, .fma, .fmin, .fmax, .fdiv, .fsqrt]
  | 0x0F => pick [.fcmp, .fcvt, .fclass]
  | 0x10 => pick [.mfc, .mtc, .msetf, .rdts, .rdres]
  | 0x14 => pick [.ld]
  | 0x15 => pick [.st]
  | 0x16 => pick [.vld, .vlds, .vldb]
  | 0x17 => pick [.vst, .vsts]
  | 0x18 => pick [.vldx, .vstx]
  | 0x19 => pick [.ldacq, .strel, .ldf, .stf, .ldfe]
  | 0x1A => pick [.atom, .cas]
  | 0x1B => pick [.ldc, .stc, .flushc]
  | 0x1C => pick [.vadd, .vsub, .vmin, .vmax, .vabs, .vneg]
  | 0x1D => pick [.vmul, .vfma, .vfms]
  | 0x1E => pick [.vand, .vor, .vxor, .vshl, .vshr, .vsar]
  | 0x1F => pick [.vcmp, .vsel, .klog, .vpopk]
  | 0x20 => pick [.vcvt, .vpack, .vunpk]
  | 0x21 => pick [.vred, .vscan]
  | 0x22 => pick [.vperm, .vslide, .vcompr, .vext, .vins, .vmov, .vbcast]
  | 0x24 => pick [.vexp2, .vlog2, .vrcp, .vrsq, .vtanh]
  | 0x25 => pick [.vord, .vhist]
  | 0x2C => pick [.mma, .mmas]
  | 0x2D => pick [.mlatch, .mzero, .mrd, .mwr]
  | 0x2E => pick [.mcommit, .mwait]
  | 0x2F => pick [.mcmpr]
  | 0x30 => pick [.xcp, .xcp2, .xga, .xsc, .xkvg]
  | 0x31 => pick [.xcoll]
  | 0x32 => pick [.fence, .xfence, .xdfence, .drain, .pfence]
  | 0x33 => pick [.ratom, .decr, .rldf, .rstf, .send]
  | 0x34 => pick [.push, .pop, .pusht, .popt]
  | 0x35 => pick [.twaita, .twaity, .tfind, .tclr, .cntw]
  | 0x36 => pick [.launch, .spawn, .cancel]
  | 0x37 => pick [.kvmatch, .kvins, .kvapp, .kvrel, .kvpin, .kvdem, .kvprom]
  | 0x38 => pick [.waitw, .yield, .setwp]
  | 0x39 => pick [.pckpt]
  | 0x3A => pick [.svwin, .svres, .xlinv]
  | _ => none

/-- The major, the minor and the fields of an operation (R92); an event has none. -/
def opcodeOf : Instr → Option (Nat × Nat × Op)
  | .br op => some (0x00, 0, op)
  | .brp op => some (0x00, 1, op)
  | .loop op => some (0x00, 2, op)
  | .bri op => some (0x01, 0, op)
  | .call op => some (0x01, 1, op)
  | .calli op => some (0x01, 2, op)
  | .ret op => some (0x01, 3, op)
  | .brc op => some (0x02, 0, op)
  | .tend op => some (0x03, 0, op)
  | .trap op => some (0x03, 1, op)
  | .sys op => some (0x03, 2, op)
  | .nopb op => some (0x03, 3, op)
  | .eret op => some (0x03, 4, op)
  | .add op => some (0x08, 0, op)
  | .sub op => some (0x08, 1, op)
  | .and op => some (0x08, 2, op)
  | .or op => some (0x08, 3, op)
  | .xor op => some (0x08, 4, op)
  | .andn op => some (0x08, 5, op)
  | .min op => some (0x08, 6, op)
  | .max op => some (0x08, 7, op)
  | .minn op => some (0x08, 8, op)
  | .maxn op => some (0x08, 9, op)
  | .shl op => some (0x09, 0, op)
  | .shr op => some (0x09, 1, op)
  | .sar op => some (0x09, 2, op)
  | .rotl op => some (0x09, 3, op)
  | .clz op => some (0x09, 4, op)
  | .ctz op => some (0x09, 5, op)
  | .popc op => some (0x09, 6, op)
  | .ext op => some (0x09, 7, op)
  | .ins op => some (0x09, 8, op)
  | .mul op => some (0x0A, 0, op)
  | .mulh op => some (0x0A, 1, op)
  | .mulhn op => some (0x0A, 2, op)
  | .div op => some (0x0A, 3, op)
  | .divn op => some (0x0A, 4, op)
  | .rem op => some (0x0A, 5, op)
  | .remn op => some (0x0A, 6, op)
  | .addi op => some (0x0B, 0, op)
  | .movi op => some (0x0C, 0, op)
  | .movhi op => some (0x0C, 1, op)
  | .cmp op => some (0x0D, 0, op)
  | .cmpi op => some (0x0D, 1, op)
  | .plog op => some (0x0D, 2, op)
  | .pmov op => some (0x0D, 3, op)
  | .sel op => some (0x0D, 4, op)
  | .fadd op => some (0x0E, 0, op)
  | .fsub op => some (0x0E, 1, op)
  | .fmul op => some (0x0E, 2, op)
  | .fma op => some (0x0E, 3, op)
  | .fmin op => some (0x0E, 4, op)
  | .fmax op => some (0x0E, 5, op)
  | .fdiv op => some (0x0E, 6, op)
  | .fsqrt op => some (0x0E, 7, op)
  | .fcmp op => some (0x0F, 0, op)
  | .fcvt op => some (0x0F, 1, op)
  | .fclass op => some (0x0F, 2, op)
  | .mfc op => some (0x10, 0, op)
  | .mtc op => some (0x10, 1, op)
  | .msetf op => some (0x10, 2, op)
  | .rdts op => some (0x10, 3, op)
  | .rdres op => some (0x10, 4, op)
  | .ld op => some (0x14, 0, op)
  | .st op => some (0x15, 0, op)
  | .vld op => some (0x16, 0, op)
  | .vlds op => some (0x16, 1, op)
  | .vldb op => some (0x16, 2, op)
  | .vst op => some (0x17, 0, op)
  | .vsts op => some (0x17, 1, op)
  | .vldx op => some (0x18, 0, op)
  | .vstx op => some (0x18, 1, op)
  | .ldacq op => some (0x19, 0, op)
  | .strel op => some (0x19, 1, op)
  | .ldf op => some (0x19, 2, op)
  | .stf op => some (0x19, 3, op)
  | .ldfe op => some (0x19, 4, op)
  | .atom op => some (0x1A, 0, op)
  | .cas op => some (0x1A, 1, op)
  | .ldc op => some (0x1B, 0, op)
  | .stc op => some (0x1B, 1, op)
  | .flushc op => some (0x1B, 2, op)
  | .vadd op => some (0x1C, 0, op)
  | .vsub op => some (0x1C, 1, op)
  | .vmin op => some (0x1C, 2, op)
  | .vmax op => some (0x1C, 3, op)
  | .vabs op => some (0x1C, 4, op)
  | .vneg op => some (0x1C, 5, op)
  | .vmul op => some (0x1D, 0, op)
  | .vfma op => some (0x1D, 1, op)
  | .vfms op => some (0x1D, 2, op)
  | .vand op => some (0x1E, 0, op)
  | .vor op => some (0x1E, 1, op)
  | .vxor op => some (0x1E, 2, op)
  | .vshl op => some (0x1E, 3, op)
  | .vshr op => some (0x1E, 4, op)
  | .vsar op => some (0x1E, 5, op)
  | .vcmp op => some (0x1F, 0, op)
  | .vsel op => some (0x1F, 1, op)
  | .klog op => some (0x1F, 2, op)
  | .vpopk op => some (0x1F, 3, op)
  | .vcvt op => some (0x20, 0, op)
  | .vpack op => some (0x20, 1, op)
  | .vunpk op => some (0x20, 2, op)
  | .vred op => some (0x21, 0, op)
  | .vscan op => some (0x21, 1, op)
  | .vperm op => some (0x22, 0, op)
  | .vslide op => some (0x22, 1, op)
  | .vcompr op => some (0x22, 2, op)
  | .vext op => some (0x22, 3, op)
  | .vins op => some (0x22, 4, op)
  | .vmov op => some (0x22, 5, op)
  | .vbcast op => some (0x22, 6, op)
  | .vexp2 op => some (0x24, 0, op)
  | .vlog2 op => some (0x24, 1, op)
  | .vrcp op => some (0x24, 2, op)
  | .vrsq op => some (0x24, 3, op)
  | .vtanh op => some (0x24, 4, op)
  | .vord op => some (0x25, 0, op)
  | .vhist op => some (0x25, 1, op)
  | .mma op => some (0x2C, 0, op)
  | .mmas op => some (0x2C, 1, op)
  | .mlatch op => some (0x2D, 0, op)
  | .mzero op => some (0x2D, 1, op)
  | .mrd op => some (0x2D, 2, op)
  | .mwr op => some (0x2D, 3, op)
  | .mcommit op => some (0x2E, 0, op)
  | .mwait op => some (0x2E, 1, op)
  | .mcmpr op => some (0x2F, 0, op)
  | .xcp op => some (0x30, 0, op)
  | .xcp2 op => some (0x30, 1, op)
  | .xga op => some (0x30, 2, op)
  | .xsc op => some (0x30, 3, op)
  | .xkvg op => some (0x30, 4, op)
  | .xcoll op => some (0x31, 0, op)
  | .fence op => some (0x32, 0, op)
  | .xfence op => some (0x32, 1, op)
  | .xdfence op => some (0x32, 2, op)
  | .drain op => some (0x32, 3, op)
  | .pfence op => some (0x32, 4, op)
  | .ratom op => some (0x33, 0, op)
  | .decr op => some (0x33, 1, op)
  | .rldf op => some (0x33, 2, op)
  | .rstf op => some (0x33, 3, op)
  | .send op => some (0x33, 4, op)
  | .push op => some (0x34, 0, op)
  | .pop op => some (0x34, 1, op)
  | .pusht op => some (0x34, 2, op)
  | .popt op => some (0x34, 3, op)
  | .twaita op => some (0x35, 0, op)
  | .twaity op => some (0x35, 1, op)
  | .tfind op => some (0x35, 2, op)
  | .tclr op => some (0x35, 3, op)
  | .cntw op => some (0x35, 4, op)
  | .launch op => some (0x36, 0, op)
  | .spawn op => some (0x36, 1, op)
  | .cancel op => some (0x36, 2, op)
  | .kvmatch op => some (0x37, 0, op)
  | .kvins op => some (0x37, 1, op)
  | .kvapp op => some (0x37, 2, op)
  | .kvrel op => some (0x37, 3, op)
  | .kvpin op => some (0x37, 4, op)
  | .kvdem op => some (0x37, 5, op)
  | .kvprom op => some (0x37, 6, op)
  | .waitw op => some (0x38, 0, op)
  | .yield op => some (0x38, 1, op)
  | .setwp op => some (0x38, 2, op)
  | .pckpt op => some (0x39, 0, op)
  | .svwin op => some (0x3A, 0, op)
  | .svres op => some (0x3A, 1, op)
  | .xlinv op => some (0x3A, 2, op)
  | _ => none

/-- Majors `0x00` and `0x0C`, and `CALL`, take the wide-immediate tail and have no compact form (R72, R78). -/
def isWideImm (ma mi : Nat) : Bool := ma == 0x00 || ma == 0x0C || (ma == 0x01 && mi == 1)

/-- The latch flags that a prefix gives a compact operation (R82). -/
structure LatchFlags where
  cla : Bool
  clb : Bool
  cnw : Bool
  deriving DecidableEq, Repr

/-- A prefix word read by itself: the prefix and its `CLA`, `CLB`, `CNW`; `ILLOP` for a reserved rounding or saturation code
and for a nonzero reserved payload bit, `RESMAJ` for a reserved kind (R54, R79 to R82). -/
def readPfx (w : IWord) : Except EncCode (Pfx × LatchFlags) :=
  match majorOf w with
  | 0x01 =>
    if w.extractLsb' 15 17 == 0#17 && modCodesOk (w.extractLsb' 9 3) (w.extractLsb' 12 2) then
      .ok (.mod (w.extractLsb' 9 3) (w.extractLsb' 12 2) (w.getLsbD 14), ⟨false, false, false⟩)
    else .error .illop
  | 0x02 => .ok (.immx (w.extractLsb' 9 23), ⟨false, false, false⟩)
  | 0x03 =>
    if w.extractLsb' 15 17 == 0#17 then
      .ok (.latchx (w.getLsbD 9) (w.getLsbD 10) (w.getLsbD 11), ⟨w.getLsbD 12, w.getLsbD 13, w.getLsbD 14⟩)
    else .error .illop
  | _ => .error .resmaj

/-- The fields of a compact word (R69, R78). -/
def compactOp (k : OpClass) (p : Pfx) (f : LatchFlags) (w : IWord) : Op :=
  { compact := true, pfx := p, pred := (w.extractLsb' 30 2).setWidth 4, pneg := false, nw := f.cnw,
    dst := w.extractLsb' 12 6, a := w.extractLsb' 18 6, b := w.extractLsb' 24 6, c := 0,
    la := f.cla, lb := f.clb, lc := false, esz := k.compactEsz, x12 := 0, imm := 0 }

/-- The fields of an `ADDI` word (R70). -/
def addiOp (p : Pfx) (f : LatchFlags) (w : IWord) : Op :=
  { compact := true, pfx := p, pred := 0, pneg := false, nw := f.cnw,
    dst := w.extractLsb' 9 6, a := w.extractLsb' 15 6, b := 0, c := 0,
    la := f.cla, lb := f.clb, lc := false, esz := 3, x12 := 0, imm := (w.extractLsb' 21 11).setWidth 24 }

/-- The fields of a head and its tail (R71, R72). -/
def wideOp (p : Pfx) (wimm : Bool) (h t : IWord) : Op :=
  { compact := false, pfx := p, pred := h.extractLsb' 22 4, pneg := h.getLsbD 26, nw := h.getLsbD 21,
    dst := h.extractLsb' 15 6, a := t.extractLsb' 2 6,
    b := if wimm then 0 else t.extractLsb' 8 6, c := if wimm then 0 else t.extractLsb' 14 6,
    la := h.getLsbD 27, lb := h.getLsbD 28, lc := h.getLsbD 29, esz := h.extractLsb' 30 2,
    x12 := if wimm then 0 else t.extractLsb' 20 12, imm := if wimm then t.extractLsb' 8 24 else 0 }

/-- An encoding fault of one operation, and whether its offending word is the prefix (R90). -/
structure OpFault where
  code : EncCode
  atPfx : Bool
  deriving DecidableEq, Repr

/-- The minor opcode of a head (R71). -/
def headMinor (h : IWord) : Nat := (h.extractLsb' 9 6).toNat

/-- The minor opcode of a compact word (R69). -/
def compactMinor (w : IWord) : Nat := (w.extractLsb' 9 3).toNat

/-- A compact word with its prefix (R69, R70, R78, R82). -/
def decodeCompact (p : Pfx) (f : LatchFlags) (w : IWord) : Except OpFault Instr :=
  match majorClass (majorOf w) with
  | none => .error ⟨.resmaj, false⟩
  | some k =>
    if majorOf w == 0x0B then .ok (.addi (addiOp p f w))
    else if isWideImm (majorOf w) (compactMinor w) then .error ⟨.illop, false⟩
    else match instrOf (majorOf w) (compactMinor w) (compactOp k p f w) with
      | some i => .ok i
      | none => .error ⟨.illop, false⟩

/-- A head and its tail with their prefix (R71, R72). A head of `ADDI`'s major is illegal (R70). -/
def decodeWide (p : Pfx) (h t : IWord) : Except OpFault Instr :=
  match majorClass (majorOf h) with
  | none => .error ⟨.resmaj, false⟩
  | some _ =>
    if majorOf h == 0x0B then .error ⟨.illop, false⟩
    else match instrOf (majorOf h) (headMinor h) (wideOp p (isWideImm (majorOf h) (headMinor h)) h t) with
      | some i => .ok i
      | none => .error ⟨.illop, false⟩

/-- The prefix of an operation, if a prefix word stands before it. -/
def optPfx : Option IWord → Except EncCode (Pfx × LatchFlags)
  | none => .ok (.none, ⟨false, false, false⟩)
  | some pw => readPfx pw

/-- Whether a prefix that is legal in itself is misplaced before an operation that no description accepts it for, of a reserved major or an
unassigned minor: `MOD` and `IMMX` always, `LATCHX` unless the operation is compact or of the V-class and the broadcast flags fit its fields
(R80 to R82). -/
def misplaced (px : Pfx) (cls : Option OpClass) (o : Op) : Bool :=
  match px with
  | .none => false
  | .mod _ _ _ | .immx _ => true
  | .latchx xa xb xc =>
    !(o.compact || cls == some .v) || (xc && o.compact) || (xa && !(o.la && decide (32 ≤ o.a.toNat))) ||
      (xb && !(o.lb && decide (32 ≤ o.b.toNat))) || (xc && !(o.lc && decide (32 ≤ o.c.toNat)))

/-- The fault of an operation with its prefix: a misplaced prefix has the lower address (R90). -/
def withPfx (px : Pfx) (cls : Option OpClass) (o : Op) (r : Except OpFault Instr) : Except OpFault Instr :=
  match r with
  | .ok i => .ok i
  | .error e => .error (if misplaced px cls o then ⟨.illop, true⟩ else e)

/-- One operation: its prefix word if it has one, its head or compact word, and its tail (R82, R84). -/
def decodeOp (p : Option IWord) (w : IWord) (t : Option IWord) : Except OpFault Instr :=
  match optPfx p with
  | .error c => .error ⟨c, true⟩
  | .ok (px, f) =>
    match t with
    | none =>
      match px with
      | .latchx _ _ true => .error ⟨.illop, true⟩
      | _ => withPfx px (majorClass (majorOf w)) (compactOp .s px f w) (decodeCompact px f w)
    | some tw =>
      if f.cla || f.clb || f.cnw then .error ⟨.illop, true⟩
      else withPfx px (majorClass (majorOf w)) (wideOp px false w tw) (decodeWide px w tw)

/-- One item of a bundle: an operation with its prefix, or a word that is none (R90). `off` is the first word of the
item, `bad` the offending word when `res` is a fault; both count words from the bundle's start. `needsMore` says that the
item's head has no word after it at all, so a fetch past the section is owed (R89). -/
structure Item where
  off : Nat
  len : Nat
  bad : Nat
  needsMore : Bool
  res : Except EncCode Instr

/-- A B-class operation takes no prefix (R83). -/
def beginsBClass (w : IWord) : Bool := majorClass (majorOf w) == some .b

/-- An item from one operation. -/
def opItem (off : Nat) (p : Option IWord) (w : IWord) (t : Option IWord) : Item :=
  let np := if p.isSome then 1 else 0
  let len := np + 1 + (if t.isSome then 1 else 0)
  match decodeOp p w t with
  | .ok i => ⟨off, len, off, false, .ok i⟩
  | .error e => ⟨off, len, if e.atPfx then off else off + np, false, .error e.code⟩

/-- A prefix with no operation to apply to (R83); a reserved kind comes first (R90). -/
def orphanItem (off : Nat) (p : IWord) : Item :=
  match readPfx p with
  | .error .resmaj => ⟨off, 1, off, false, .error .resmaj⟩
  | .error .illop => ⟨off, 1, off, false, .error .illop⟩
  | _ => ⟨off, 1, off, false, .error .orphan⟩

/-- A prefix of a reserved kind (R79). -/
def reservedPfx (p : IWord) : Bool :=
  match readPfx p with
  | .error .resmaj => true
  | _ => false

/-- Whether a prefix that is legal in itself cannot stand before a head whose fields are not all there (R80 to R82): before one of a reserved
major, none can. -/
def unfitHead (px : Pfx) (f : LatchFlags) (cls : Option OpClass) : Bool :=
  match px, cls with
  | .none, _ => false
  | _, none => true
  | .latchx _ _ _, some c => f.cla || f.clb || f.cnw || c != .v
  | _, some _ => false

/-- A head that no tail follows (R84), with its prefix: a fault of the prefix comes first, then a reserved major (R90). `more`
says that the bundle's words end with it. -/
def brokenHead (off : Nat) (p : Option IWord) (h : IWord) (more : Bool) : Item :=
  let cls := majorClass (majorOf h)
  let own : EncCode := if cls.isNone then .resmaj else .illop
  match p with
  | none => ⟨off, 1, off, more, .error own⟩
  | some w =>
    match readPfx w with
    | .error c => ⟨off, 2, off, more, .error c⟩
    | .ok (px, f) => if unfitHead px f cls then ⟨off, 2, off, more, .error .illop⟩ else ⟨off, 2, off + 1, more, .error own⟩

/-- The items of a bundle's words, in order (R68, R83, R84). -/
def scanItems : Nat → List IWord → List Item
  | _, [] => []
  | off, [w] =>
    match wordType w with
    | .compact => [opItem off none w none]
    | .head => [brokenHead off none w true]
    | .pre => [orphanItem off w]
    | .tail => [⟨off, 1, off, false, .error .illop⟩]
  | off, [w, u] =>
    match wordType w with
    | .compact => opItem off none w none :: scanItems (off + 1) [u]
    | .head =>
      if wordType u == .tail then [opItem off none w (some u)]
      else brokenHead off none w false :: scanItems (off + 1) [u]
    | .pre =>
      if beginsBClass u && !reservedPfx w then orphanItem off w :: scanItems (off + 1) [u]
      else match wordType u with
        | .compact => [opItem off (some w) u none]
        | .head => [brokenHead off (some w) u true]
        | _ => orphanItem off w :: scanItems (off + 1) [u]
    | .tail => ⟨off, 1, off, false, .error .illop⟩ :: scanItems (off + 1) [u]
  | off, w :: u :: v :: rest =>
    match wordType w with
    | .compact => opItem off none w none :: scanItems (off + 1) (u :: v :: rest)
    | .head =>
      if wordType u == .tail then opItem off none w (some u) :: scanItems (off + 2) (v :: rest)
      else brokenHead off none w false :: scanItems (off + 1) (u :: v :: rest)
    | .pre =>
      if beginsBClass u && !reservedPfx w then orphanItem off w :: scanItems (off + 1) (u :: v :: rest)
      else match wordType u with
        | .compact => opItem off (some w) u none :: scanItems (off + 2) (v :: rest)
        | .head =>
          if wordType v == .tail then opItem off (some w) u (some v) :: scanItems (off + 3) rest
          else brokenHead off (some w) u false :: scanItems (off + 2) (v :: rest)
        | _ => orphanItem off w :: scanItems (off + 1) (u :: v :: rest)
    | .tail => ⟨off, 1, off, false, .error .illop⟩ :: scanItems (off + 1) (u :: v :: rest)

/-- The words of a bundle that begins at the head of the list: up to the next word with S = 1, or to the end (R68,
R89). -/
def bundleWords : List IWord → List IWord
  | [] => []
  | w :: rest => w :: rest.takeWhile (fun u => !startsBundle u)

/-- The first operation of a list of words, if its first item is one. -/
def decodeFirst (ws : List IWord) : Option Instr :=
  match scanItems 0 ws with
  | it :: _ => match it.res with | .ok i => some i | .error _ => none
  | [] => none

/-- How many words the operation at the head of the list takes. -/
def firstLen (ws : List IWord) : Nat :=
  match scanItems 0 ws with
  | it :: _ => it.len
  | [] => 0

/-- The words of a table row: bit 0 of `w` is the lowest bit of the first word (at most three words, R79, R84). -/
def tableWords (nbits w : Nat) : List IWord :=
  let v := w % 2 ^ nbits
  let ws := [BitVec.ofNat 32 v, BitVec.ofNat 32 (v / 2 ^ 32), BitVec.ofNat 32 (v / 2 ^ 64)]
  ws.take (firstLen ws)

/-- The operation that the decoder reads from a table row's words. -/
def decodeTableWord (nbits w : Nat) : Option Instr := decodeFirst (tableWords nbits w)

/-! ## The encoder -/

/-- A one-bit field. -/
def bit (b : Bool) : BitVec 1 := BitVec.ofBool b

/-- A prefix word (R79 to R82); none for an operation without one. -/
def encodePfx (start : Bool) (o : Op) : List IWord :=
  match o.pfx with
  | .none => []
  | .mod rnd sat fl => [(0#17 ++ bit fl ++ sat ++ rnd ++ 1#6 ++ bit start ++ 2#2 : BitVec 32)]
  | .immx hi => [(hi ++ 2#6 ++ bit start ++ 2#2 : BitVec 32)]
  | .latchx xa xb xc =>
    let c := o.compact
    [(0#17 ++ bit (c && o.nw) ++ bit (c && o.lb) ++ bit (c && o.la) ++ bit xc ++ bit xb ++ bit xa ++ 3#6 ++
      bit start ++ 2#2 : BitVec 32)]

/-- A compact word (R69). -/
def encodeCompact (start : Bool) (ma mi : Nat) (o : Op) : IWord :=
  (o.pred.setWidth 2 ++ o.b ++ o.a ++ o.dst ++ BitVec.ofNat 3 mi ++ BitVec.ofNat 6 ma ++ bit start ++ 0#2 : BitVec 32)

/-- An `ADDI` word (R70). -/
def encodeAddi (start : Bool) (o : Op) : IWord :=
  (o.imm.setWidth 11 ++ o.a ++ o.dst ++ 0x0B#6 ++ bit start ++ 0#2 : BitVec 32)

/-- A head (R71). -/
def encodeHead (start : Bool) (ma mi : Nat) (o : Op) : IWord :=
  (o.esz ++ bit o.lc ++ bit o.lb ++ bit o.la ++ bit o.pneg ++ o.pred ++ bit o.nw ++ o.dst ++ BitVec.ofNat 6 mi ++
    BitVec.ofNat 6 ma ++ bit start ++ 1#2 : BitVec 32)

/-- A tail (R72). -/
def encodeTail (wimm : Bool) (o : Op) : IWord :=
  if wimm then (o.imm ++ o.a ++ 3#2 : BitVec 32)
  else (o.x12 ++ o.c ++ o.b ++ o.a ++ 3#2 : BitVec 32)

/-- The words of an operation, `start` being the S bit of its first word; an event has none. -/
def encodeAt (start : Bool) (i : Instr) : List IWord :=
  match opcodeOf i with
  | none => []
  | some (ma, mi, o) =>
    let p := encodePfx start o
    let s := start && p.isEmpty
    if ma == 0x0B then p ++ [encodeAddi s o]
    else if o.compact then p ++ [encodeCompact s ma mi o]
    else p ++ [encodeHead s ma mi o, encodeTail (isWideImm ma mi) o]

/-- The words of an operation that begins a bundle. -/
def encode (i : Instr) : List IWord := encodeAt true i

end Sys2Proof
end

