-- ==== Sys2Proof/Machine/Legal.lean ====
section
/-! DEFINITION. The encoding checks of an operation's fields (R71 to R92, R102 to R104, R125, R134 to R138, R154, R161 to R190,
R211, R212, R226 to R249): which register files and latch-space codes a field may name, the bits of `x12`, types, threads and
prefixes; and the checks over a whole bundle (R41, R77, R85, R86, R91, R109). -/

namespace Sys2Proof.Machine

open Sys2Proof

/-- What a register field holds: nothing, a scalar (or `h`), a vector, a mask, a predicate, a tile, a stationary latch, a tag,
a condition code, a predicate or `h`, a vector or `h`, the data of a push, or another number that its own check judges. -/
inductive FK where
  | zero
  | s
  | v
  | k
  | p
  | tile
  | st
  | tag
  | cond
  | q
  | r
  | dat
  | num
  deriving DecidableEq, Repr

/-- The kinds of the four register fields. -/
structure Fields where
  dst : FK
  a : FK
  b : FK
  c : FK
  deriving DecidableEq, Repr

/-- The fields of each operation (R105, R114 to R134, R136, R144, R154, R161, R189, R211, R248). -/
def fieldsOf (i : Instr) (o : Op) : Fields :=
  match i with
  | .br _ | .tend _ | .trap _ | .sys _ | .nopb _ | .eret _ => ⟨.zero, .zero, .zero, .zero⟩
  | .brp _ => ⟨.zero, .k, .zero, .zero⟩
  | .call _ | .movi _ | .mfc _ | .rdts _ | .rdres _ | .mcommit _ | .pckpt _ => ⟨.s, .zero, .zero, .zero⟩
  | .bri _ | .ret _ | .mtc _ | .msetf _ | .setwp _ | .twaita _ | .tclr _ | .svres _ => ⟨.zero, .s, .zero, .zero⟩
  | .loop _ | .calli _ | .clz _ | .ctz _ | .popc _ | .ext _ | .addi _ | .movhi _ | .fsqrt _ | .fcvt _ | .fclass _
  | .twaity _ | .tfind _ | .cntw _ => ⟨.s, .s, .zero, .zero⟩
  | .brc _ => ⟨.cond, .s, .s, .zero⟩
  | .add _ | .sub _ | .and _ | .or _ | .xor _ | .andn _ | .min _ | .max _ | .minn _ | .maxn _ | .ins _ | .mul _ | .mulh _
  | .mulhn _ | .div _ | .divn _ | .rem _ | .remn _ | .fadd _ | .fsub _ | .fmul _ | .fmin _ | .fmax _ | .fdiv _ =>
    ⟨.s, .s, .s, .zero⟩
  | .shl _ | .shr _ | .sar _ | .rotl _ => ⟨.s, .s, if o.x12.getLsbD 6 then .zero else .s, .zero⟩
  | .cmp _ | .fcmp _ => ⟨.q, .s, .s, .zero⟩
  | .cmpi _ => ⟨.q, .s, .zero, .zero⟩
  | .plog _ => ⟨.p, .p, .p, .zero⟩
  | .pmov _ =>
    if o.xbits 0 2 = 1 then ⟨.s, .zero, .zero, .zero⟩ else if o.xbits 0 2 = 2 then ⟨.zero, .s, .zero, .zero⟩
    else ⟨.p, .p, .zero, .zero⟩
  | .sel _ => ⟨.s, .s, .s, .q⟩
  | .fma _ | .cas _ => ⟨.s, .s, .s, .s⟩
  | .waitw _ | .yield _ => ⟨.zero, .zero, .zero, .zero⟩
  | .ld _ | .st _ | .ldacq _ | .strel _ | .ldf _ | .stf _ | .ldfe _ | .atom _ | .ldc _ | .stc _ => ⟨.s, .s, .s, .num⟩
  | .flushc _ => if o.lop < 2 then ⟨.zero, .s, .s, .num⟩ else ⟨.zero, .zero, .zero, .num⟩
  | .vld _ | .vlds _ | .vst _ | .vsts _ => ⟨.v, .s, .s, .k⟩
  | .vldb _ => ⟨.v, .s, .zero, .k⟩
  | .vldx _ | .vstx _ => ⟨.v, .s, .v, .k⟩
  | .vadd _ | .vsub _ | .vmin _ | .vmax _ | .vmul _ | .vand _ | .vor _ | .vxor _ | .vshl _ | .vshr _ | .vsar _ | .vsel _
  | .vpack _ | .vperm _ | .vslide _ => ⟨.v, .v, .v, .zero⟩
  | .vabs _ | .vneg _ | .vscan _ | .vcompr _ | .vmov _ | .vexp2 _ | .vlog2 _ | .vrcp _ | .vrsq _ | .vtanh _ | .vord _ =>
    ⟨.v, .v, .zero, .zero⟩
  | .vfma _ | .vfms _ => ⟨.v, .v, .v, .v⟩
  | .vcmp _ => ⟨.k, .v, .v, .zero⟩
  | .klog _ => ⟨.k, .k, .k, .zero⟩
  | .vpopk _ => ⟨.s, .k, .zero, .zero⟩
  | .vcvt _ | .vunpk _ => ⟨.v, .v, .zero, .num⟩
  | .vred _ => ⟨.s, .v, .zero, .zero⟩
  | .vext _ => ⟨.s, .v, .s, .zero⟩
  | .vins _ => ⟨.v, .s, .s, .zero⟩
  | .vbcast _ => ⟨.v, .s, .zero, .zero⟩
  | .vhist _ => ⟨.v, .v, .v, .k⟩
  | .mma _ | .mmas _ => ⟨.tile, .s, if o.x12.getLsbD 5 then .st else .s, .s⟩
  | .mlatch _ => ⟨.st, .s, .zero, .zero⟩
  | .mzero _ => ⟨.tile, .zero, .zero, .zero⟩
  | .mrd _ => ⟨.v, .tile, .zero, .zero⟩
  | .mwr _ => ⟨.tile, .v, .zero, .zero⟩
  | .mwait _ => ⟨.zero, if o.x12.getLsbD 3 then .s else .zero, .zero, .zero⟩
  | .mcmpr _ => ⟨.zero, .s, .s, .s⟩
  | .ratom _ => ⟨.tag, .s, .s, if o.x12.getLsbD 4 then .zero else .s⟩
  | .xlinv _ => if o.x12.getLsbD 0 then ⟨.tag, .zero, .zero, .zero⟩ else ⟨.tag, .s, .s, .zero⟩
  | .xcp _ | .xcp2 _ | .xga _ | .xsc _ | .xkvg _ | .xcoll _ | .kvmatch _ | .kvins _ | .kvapp _ | .kvdem _
  | .kvprom _ => ⟨.tag, .s, .s, .s⟩
  | .fence _ | .xfence _ | .xdfence _ | .drain _ | .pfence _ => ⟨.zero, .zero, .zero, .zero⟩
  | .decr _ | .rstf _ | .send _ | .spawn _ | .kvpin _ => ⟨.tag, .s, .s, .zero⟩
  | .rldf _ => ⟨.tag, .s, .zero, .s⟩
  | .push _ => ⟨.zero, .dat, .zero, .zero⟩
  | .pop _ | .popt _ => ⟨.r, .zero, .zero, .zero⟩
  | .pusht _ => ⟨.q, .dat, .zero, .zero⟩
  | .launch _ | .cancel _ | .kvrel _ => ⟨.tag, .s, .zero, .zero⟩
  | .svwin _ => if o.x12.getLsbD 0 then ⟨.zero, .s, .s, .s⟩ else ⟨.s, .s, .zero, .s⟩
  | _ => ⟨.zero, .zero, .zero, .zero⟩

/-- How many registers a kind of field may name, on the primary and on a scavenger (R75, R212, R242). -/
def FK.limit (t : Thr) : FK → Nat
  | .zero => 1
  | .s | .r | .dat => match t with | .prim => 64 | .scav _ => 32
  | .v | .num => 64
  | .k | .p => 16
  | .q => match t with | .prim => 16 | .scav _ => 32
  | .tile => 32
  | .st => 4
  | .tag => match t with | .prim => 64 | .scav _ => 8
  | .cond => 10

/-- Whether a source field may hold a latch-space code (R76, R137, R164, R190, R212, R249). The predicate fields of the S-class and
the mask field of `BRP` are source fields too. -/
def latchOk (cls : OpClass) (t : Thr) (kind : FK) (own : Bool) (x : BitVec 6) : Bool :=
  match t with
  | .scav _ => isPopCode x && ((cls == .s && !own && (kind == .s || kind == .q)) || kind == .dat)
  | .prim =>
    match kind with
    | .dat => isLatchCode x || isPopCode x || isBcCode x
    | .v => isLatchCode x || (cls == .v && (isPopCode x || isBcCode x))
    | .s => isLatchCode x || (cls == .s && isPopCode x)
    | .p | .q => (cls == .s && (isLatchCode x || isPopCode x))
    | .k => cls == .b && isLatchCode x
    | _ => false

/-- A source field is legal. -/
def srcOk (cls : OpClass) (t : Thr) (own : Bool) (kind : FK) (x : BitVec 6) (latch : Bool) : Bool :=
  if latch then kind != .zero && latchOk cls t kind own x else decide (x.toNat < kind.limit t)

/-- The threads that may execute an operation (R92). -/
def threadOk (i : Instr) (t : Thr) : Bool :=
  match t with
  | .prim => match i with
    | .ldc _ | .stc _ | .flushc _ | .waitw _ | .yield _ | .setwp _ => false
    | _ => true
  | .scav _ => match i with
    | .brp _ | .tend _ | .eret _ | .plog _ | .pmov _ | .msetf _ | .xcoll _ | .launch _ | .cancel _ | .pckpt _ | .svwin _
    | .svres _ | .xlinv _ | .kvmatch _ | .kvins _ | .kvapp _ | .kvrel _ | .kvpin _ | .kvdem _ | .kvprom _
    | .vld _ | .vlds _ | .vldb _ | .vst _ | .vsts _ | .vldx _ | .vstx _ => false
    | _ => i.cls? != some .v && i.cls? != some .m

/-- Whether an operation's result may land in its latch only (R76, R137, R190, R212, R249). -/
def nwOk (i : Instr) (o : Op) : Bool :=
  match i.cls? with
  | some .m => match i with | .mrd _ => true | _ => false
  | some .x => match i with | .pop _ | .popt _ | .twaity _ | .tfind _ | .cntw _ => true | _ => false
  | some .l => match i with
    | .ld _ | .ldacq _ | .ldf _ | .ldfe _ | .atom _ | .cas _ | .vld _ | .vlds _ | .vldb _ | .vldx _ => true
    | _ => false
  | some _ => (fieldsOf i o).dst == .s || (fieldsOf i o).dst == .v
  | none => false

/-! ## Types (R74, R123, R128, R163, R175 to R177, R209, R226) -/

/-- A one-type code in a list of accepted types with the width that `esz` gives; `dflt` says whether code 0 is accepted. -/
def typeOk (o : Op) (accepted : Ty → Bool) (dflt : Bool) : Bool :=
  if o.tyCode = 0 then dflt
  else match tyOfCode o.tyCode with
    | some t => accepted t && t.width == eszWidth o.esz
    | none => false

def isBigFloat (t : Ty) : Bool := t == .f64 || t == .f32 || t == .f16 || t == .bf16
def isInt (t : Ty) : Bool := !t.isFloat
def isTrans (t : Ty) : Bool := t == .f32 || t == .f16 || t == .bf16
/-- The types of the rows that accept no `.f8e4`, `.f8e5` or `.f4e2` (R163). -/
def isPlain (t : Ty) : Bool := isBigFloat t || isInt t

/-- The types of a conversion: both given, the source not `.f4e2`. -/
def convOk (o : Op) (f : Ty → Ty → Bool) : Bool :=
  match tyOfCode o.modifier, tyOfCode o.tyCode with
  | some d, some s => s != .f4e2 && f d s
  | _, _ => false

/-- The part number of a conversion (R175, R177). -/
def partOk (o : Op) (d s : Ty) : Bool := decide (o.c.toNat < max d.width s.width / min d.width s.width)

/-- `esz` and the types of an operation. -/
def eszOk (i : Instr) (o : Op) : Bool :=
  let e := o.esz.toNat
  let w := eszWidth o.esz
  match i with
  | .fadd _ | .fsub _ | .fmul _ | .fma _ | .fdiv _ | .fsqrt _ | .fmin _ | .fmax _ | .fcmp _ => typeOk o isBigFloat (e != 0)
  | .fclass _ => typeOk o (fun t => isBigFloat t || t == .f8e4 || t == .f8e5) (e != 0)
  | .fcvt _ => convOk o fun d s => d != .f4e2 && (d.isFloat || s.isFloat) && d.width == w
  | .ldf _ | .stf _ | .ldfe _ | .flushc _ => e == 3
  | .vldx _ | .vstx _ | .atom _ | .cas _ | .ratom _ => decide (2 ≤ e)
  | .vadd _ | .vsub _ | .vmin _ | .vmax _ | .vabs _ | .vneg _ | .vmul _ | .vfma _ | .vfms _ | .vcmp _ | .vscan _ | .vred _
  | .vord _ => typeOk o isPlain true
  | .vand _ | .vor _ | .vxor _ | .vshl _ | .vshr _ | .vsar _ => typeOk o isInt true
  | .vsel _ | .vpopk _ | .vperm _ | .vslide _ | .vcompr _ | .vmov _ | .vbcast _ => typeOk o isPlain true
  | .vexp2 _ | .vlog2 _ | .vrcp _ | .vrsq _ | .vtanh _ => typeOk o isTrans (e == 1 || e == 2)
  | .vcvt _ => convOk o fun d s =>
      (d.isFloat || s.isFloat) && (if d == .f4e2 then e == 0 else d.width == w) && partOk o d s
  | .vpack _ => convOk o fun d s => isInt d && isInt s && 2 * d.width == s.width && d.width == w
  | .vunpk _ => convOk o fun d s => isInt d && isInt s && decide (s.width < d.width) && d.width == w && partOk o d s
  | .vext _ | .vins _ => true
  | .vhist _ => decide (o.xbits 0 6 + o.xbits 6 3 + 1 ≤ w)
  | .klog _ => e == 2
  | .mcmpr _ => (mcmprTy o.tyCode o.esz).isSome
  | .xcoll _ =>
    if o.xbits 8 2 = 2 then typeOk o (fun _ => true) true
    else typeOk o (fun t => (isTrans t && decide (o.modifier ≤ 2)) || isInt t)
      (!(decide (2 < o.modifier) && (e == 1 || e == 2)))
  | _ =>
    match i.cls? with
    | some .b => decide (e < 2)
    | some .s | some .x => e == 3
    | some .m => e == 0
    | _ => true

/-! ## The bits of `x12` and field `c` -/

/-- Whether `x12` has no bit outside a mask. -/
def within (o : Op) (mask : BitVec 12) : Bool := o.x12 &&& ~~~mask == 0

/-- `x12` and the modifier in field `c` are legal for a thread. -/
def modOk (i : Instr) (o : Op) (t : Thr) : Bool :=
  let n := o.x12.toNat
  match i with
  | .brc _ | .trap _ | .sys _ | .yield _ => true
  | .shl _ | .shr _ | .sar _ | .rotl _ => within o 0x07F && (o.x12.getLsbD 6 || o.xbits 0 6 == 0)
  | .ext _ | .ins _ => decide (o.xbits 0 6 + o.xbits 6 6 + 1 ≤ 64)
  | .cmp _ => decide (n ≤ 9)
  | .cmpi _ => decide (o.modifier ≤ 9)
  | .plog _ | .klog _ => decide (n ≤ 7)
  | .pmov _ => decide (n ≤ 2)
  | .fadd _ | .fsub _ | .fmul _ | .fma _ | .fdiv _ | .fsqrt _ | .fmin _ | .fmax _ | .fclass _ | .vpopk _ | .mcmpr _ =>
    within o 0x0F0
  | .fcmp _ => within o 0x0F7
  | .fcvt _ => within o 0x0FF
  | .mfc _ => (ctlAcc n).isSome && (match t with | .prim => true | .scav _ => scavReads n)
  | .mtc _ =>
    (match ctlAcc n with | some a => a != .ro | none => false) && (match t with | .prim => true | .scav _ => scavWrites n)
  | .rdres _ => within o 0x03F && decide (o.xbits 0 3 ≤ 4) &&
      (match t with | .prim => true | .scav k => o.xbits 3 3 == k.val)
  | .ld _ => o.lop == 0 && (!o.sx || o.esz != 3)
  | .st _ | .stc _ | .ldf _ | .stf _ => o.lop == 0 && !o.sx
  | .ldc _ => o.lop == 0 && (!o.sx || o.esz != 3)
  | .ldacq _ => decide (o.lop ≤ 5) && (!o.sx || o.esz != 3)
  | .strel _ => decide (o.lop ≤ 5) && !o.sx
  | .ldfe _ => decide (o.lop ≤ 2) && !o.sx
  | .flushc _ => decide (o.lop ≤ 3) && !o.sx && (decide (o.lop < 2) || (o.x12 == 0 && o.shiftAmt == 0))
  | .atom _ => decide (o.c.toNat ≤ 9)
  | .cas _ | .vld _ | .vlds _ | .vldb _ | .vst _ | .vsts _ | .mlatch _ => true
  | .vldx _ | .vstx _ => within o 0x003
  | .vcmp _ => decide (o.modifier ≤ (if (arithTy o).isFloat then 7 else 9))
  | .vred _ => decide (o.modifier ≤ 5) && !((arithTy o).isFloat && decide (2 < o.modifier))
  | .vscan _ => decide (o.modifier % 8 ≤ 5) && !((arithTy o).isFloat && decide (2 < o.modifier % 8))
  | .vcvt _ | .vpack _ | .vunpk _ | .vslide _ => true
  | .vext _ | .vins _ => within o 0x1FF
  | .vord _ => within o 0xFF7 && !(o.x12.getLsbD 1 && o.x12.getLsbD 2)
  | .vhist _ => within o 0x3FF && (o.xbits 6 3 == 7 || !o.x12.getLsbD 9)
  | .mma _ | .mmas _ => within o 0x07F && decide (o.dst.toNat + (o.xbits 0 2 + 1) * (o.xbits 2 3 + 1) ≤ 32)
  | .mzero _ => within o 0x01F && decide (o.dst.toNat + (o.xbits 0 2 + 1) * (o.xbits 2 3 + 1) ≤ 32)
  | .mrd _ | .mwr _ | .kvpin _ | .kvdem _ | .kvprom _ | .svwin _ => within o 0x001
  | .mwait _ => within o 0x00F && o.xbits 2 2 != 3 && (o.xbits 2 2 == 0 || o.xbits 0 2 == 0)
  | .xga _ | .xsc _ => within o 0x007
  | .xcoll _ => within o 0x3FF && o.xbits 8 2 != 3 && decide (o.modifier ≤ 5) && (o.xbits 8 2 != 2 || o.modifier == 0)
  | .fence _ | .xdfence _ => decide (n ≤ 5)
  | .pfence _ => n == 6
  | .xfence _ => within o 0x01F && o.xbits 0 4 != 0
  | .ratom _ => within o 0x01F && decide (o.modifier ≤ 10) && !(o.modifier == 10 && o.x12.getLsbD 4)
  | .send _ | .spawn _ => decide (n ≤ 4)
  | .push _ | .pop _ | .pusht _ | .cntw _ => within o 0x003
  | .popt _ => within o 0x1F3 && (match t with | .prim => decide (o.xbits 4 5 < 16) | .scav _ => true)
  | .cancel _ => within o 0x007
  | .svres _ => decide (n ≤ 2)
  | .xlinv _ => decide (n ≤ 1)
  | .vadd _ | .vsub _ | .vmin _ | .vmax _ | .vabs _ | .vneg _ | .vmul _ | .vfma _ | .vfms _ | .vand _ | .vor _ | .vxor _
  | .vshl _ | .vshr _ | .vsar _ | .vsel _ | .vperm _ | .vcompr _ | .vmov _ | .vbcast _ | .vexp2 _ | .vlog2 _ | .vrcp _
  | .vrsq _ | .vtanh _ => within o 0xFF0
  | _ => o.x12 == 0

/-! ## Prefixes (R80 to R82, R125, R166) -/

/-- The highest rounding and saturation codes that a `MOD` prefix may carry; none where no `MOD` is accepted. -/
def modLimit (i : Instr) (o : Op) : Option (Nat × Nat) :=
  let fl := (arithTy o).isFloat
  match i with
  | .fadd _ | .fsub _ | .fmul _ | .fma _ | .fdiv _ | .fsqrt _ | .fcvt _ => some (4, 2)
  | .fmin _ | .fmax _ | .fcmp _ => some (0, 0)
  | .vadd _ | .vsub _ | .vmul _ | .vfma _ | .vfms _ => if fl then some (4, 2) else none
  | .vred _ | .vscan _ => if fl then (if o.modifier % 8 = 0 then some (4, 2) else some (0, 0)) else none
  | .vmin _ | .vmax _ | .vcmp _ => if fl then some (0, 0) else none
  | .vcvt _ => some (4, if tyOfCode o.modifier = some .f4e2 then 1 else 2)
  | .vexp2 _ | .vlog2 _ | .vrcp _ | .vrsq _ | .vtanh _ => some (0, 0)
  | _ => none

/-- The operations that take `IMMX` (R102, R135, R190). -/
def immxOk (i : Instr) : Bool :=
  match i with
  | .addi _ | .movi _ | .mlatch _ => true
  | .vldx _ | .vstx _ => false
  | _ => i.cls? == some .l

/-- Whether an operation belongs to the chapter whose operations accept no `LATCHX` (R249). -/
def takesNoLatchx (i : Instr) : Bool :=
  match i with
  | .kvmatch _ | .kvins _ | .kvapp _ | .kvrel _ | .kvpin _ | .kvdem _ | .kvprom _ | .waitw _ | .yield _ | .setwp _ | .pckpt _
  | .svwin _ | .svres _ | .xlinv _ => true
  | _ => false

/-- A prefix is one that the operation accepts. -/
def pfxOk (i : Instr) (o : Op) : Bool :=
  match o.pfx with
  | .none => true
  | .mod r s _ =>
    match modLimit i o with
    | none => false
    | some l => decide (r.toNat ≤ l.1) && decide (s.toNat ≤ l.2)
  | .immx _ => immxOk i
  | .latchx xa xb xc =>
    !takesNoLatchx i && (o.compact || i.cls? == some .v) && !(xc && o.compact) &&
    (!xa || (o.la && isBcCode o.a)) && (!xb || (o.lb && isBcCode o.b)) && (!xc || (o.lc && isBcCode o.c))

/-! ## One operation -/

/-- Whether the operation moves scavenger management (major `0x38`), whose fields take no latch-space code (R249). -/
def isOwn (i : Instr) : Bool := match i with | .waitw _ | .yield _ | .setwp _ => true | _ => false

/-- Whether the drain flag may not stand on an operation (R104, R109). -/
def noDrain (i : Instr) (t : Thr) : Bool :=
  match t with
  | .scav _ => true
  | .prim => match i with | .tend _ | .trap _ | .sys _ | .nopb _ | .eret _ => true | _ => false

/-- The operation's own opcode, fields and thread are legal. -/
def bodyOk (i : Instr) (o : Op) (cls : OpClass) (t : Thr) : Bool :=
  let f := fieldsOf i o
  let own := isOwn i
  threadOk i t && eszOk i o && modOk i o t &&
  decide (o.dst.toNat < f.dst.limit t) && srcOk cls t own f.a o.a o.la && srcOk cls t own f.b o.b o.lb &&
  srcOk cls t own f.c o.c o.lc && (!o.nw || (t == .prim && nwOk i o)) &&
  (match t with | .prim => true | .scav _ => o.pred == 0 && !o.pneg) &&
  (match i with | .movi _ => o.a == 0 | .br _ | .call _ => o.a == 0 | _ => true) &&
  !(cls == .b && o.esz.getLsbD 0 && noDrain i t)

/-- The encoding faults of one operation: of its own opcode, fields or thread, and of its prefix (R90). -/
def opFaults (i : Instr) (t : Thr) : Bool × Bool :=
  match i.op?, i.cls? with
  | some o, some cls => (!bodyOk i o cls t, !pfxOk i o)
  | _, _ => (true, false)

/-! ## A bundle -/

/-- The slots of a class, and how many (R85). A scavenger's control transfers issue into `S0` or `S1` (R33). -/
def slotsOf (c : OpClass) (t : Thr) : Nat × Nat :=
  match c with
  | .b => match t with | .prim => (0, 2) | .scav _ => (2, 2)
  | .s => (2, 2)
  | .l => (4, 2)
  | .v => (6, 2)
  | .m => (8, 1)
  | .x => (9, 1)

/-- The scalars that an operation sends through the broadcast port (R41, R77, R184): 64 and above for a latch. -/
def broadcasts (i : Instr) (o : Op) : List Nat :=
  match i with
  | .vbcast _ => [if o.la then 64 + o.a.toNat else o.a.toNat]
  | _ =>
    if i.cls? != some .v then []
    else
      let f := fun (x : BitVec 6) (l hi : Bool) => if l && isBcCode x then [(bcReg x hi).toNat] else []
      (f o.a o.la o.xa ++ f o.b o.lb o.xb ++ f o.c o.lc o.xc).eraseDups

/-- An encoding fault found in a bundle: the offending word, the first word of its item, and the code. -/
structure EncFault where
  bad : Nat
  off : Nat
  code : EncCode
  deriving DecidableEq, Repr

/-- The operations placed so far: slot, item, operation. -/
abbrev Placed := List (Nat × Sys2Proof.Item × Instr)

/-- Whether an operation must be the only one of its class but for `NOPB` (R109). -/
def alone (i : Instr) : Bool := match i with | .tend _ | .trap _ | .sys _ | .eret _ => true | _ => false
def isNopb (i : Instr) : Bool := match i with | .nopb _ => true | _ => false

/-- The items of a bundle in word order: operations in their slots, and every encoding fault (R85, R90, R91). R90 does not fix the offending
word of two kinds of `SLOTCLASH`: for a second use of the broadcast port (R77) it is the head or compact word of the operation that adds
it, for the second operation of a scavenger's bundle (R91) the first word of its item, a prefix included (DESIGN CHOICE, log 90). -/
def placeItems (t : Thr) : List Sys2Proof.Item → Nat → Placed → List EncFault → Placed × List EncFault
  | [], _, ps, fs => (ps, fs)
  | it :: l, n, ps, fs =>
    let second : List EncFault := match t with
      | .scav _ => if n = 1 then [⟨it.off, it.off, .slotclash⟩] else []
      | .prim => []
    match it.res with
    | .error c => placeItems t l (n + 1) ps (fs ++ second ++ [⟨it.bad, it.off, c⟩])
    | .ok i =>
      let hasPfx : Bool := match i.op? with | some o => o.pfx != .none | none => false
      let head := if hasPfx then it.off + 1 else it.off
      let bad := opFaults i t
      let own : List EncFault :=
        (if bad.2 then [⟨it.off, it.off, .illop⟩] else []) ++ (if bad.1 then [⟨head, it.off, .illop⟩] else [])
      let cls := (i.cls?).getD .s
      let sl := slotsOf cls t
      let used := (ps.filter fun p => decide (sl.1 ≤ p.1) && decide (p.1 < sl.1 + sl.2)).length
      let o := (i.op?).getD ⟨true, .none, 0, false, false, 0, 0, 0, 0, false, false, false, 0, 0, 0⟩
      let bc := broadcasts i o
      let clash := decide (sl.2 ≤ used) ||
        (bc != [] && (decide (1 < bc.length) || ps.any fun p =>
          match p.2.2.op? with | some q => broadcasts p.2.2 q != [] | none => false))
      let pair := cls == .b && ps.any fun p => p.2.2.cls? == some .b &&
        ((alone i && !isNopb p.2.2) || (alone p.2.2 && !isNopb i))
      let fs := fs ++ second ++ own ++ (if clash then [⟨head, it.off, .slotclash⟩] else []) ++
        (if pair then [⟨head, it.off, .illop⟩] else [])
      placeItems t l (n + 1) (ps ++ [(sl.1 + used, it, i)]) fs

/-- Whether one fault comes before another: lower offending word, then the order of R90. -/
def EncFault.before (x y : EncFault) : Bool :=
  decide (x.bad < y.bad) || (x.bad == y.bad && decide (x.code.rank < y.code.rank))

/-- The fault that is raised (R90). -/
def firstFault : List EncFault → Option EncFault
  | [] => none
  | f :: l =>
    match firstFault l with
    | none => some f
    | some g => if g.before f then some g else some f

/-- A seventeenth word (R86): the offending word, and the item that holds it. -/
def tooLong (items : List Sys2Proof.Item) (n : Nat) : List EncFault :=
  if n ≤ 16 then []
  else
    let off := match items.find? fun it => decide (it.off ≤ 16) && decide (16 < it.off + it.len) with
      | some it => it.off
      | none => 16
    [⟨16, off, .slotclash⟩]

/-- The words left when an item is left out of a bundle (R373): the words, and the place in the bundle of each. -/
def omitItem (ws : List IWord) (left : Option Nat) : List IWord × (Nat → Nat) :=
  match left with
  | none => (ws, id)
  | some o =>
    match (scanItems 0 ws).find? fun it => it.off == o with
    | none => (ws, id)
    | some it => (ws.take o ++ ws.drop (o + it.len), fun n => if n < o then n else n + it.len)

/-- The operations of a bundle's words in their slots, each with the place of its first word, and the fault that is raised;
`left` names the first word of an item that a skip leaves out. -/
def checkBundle (t : Thr) (ws : List IWord) (left : Option Nat) : List (Nat × Nat × Instr) × Option EncFault :=
  let w := omitItem ws left
  let items := scanItems 0 w.1
  let r := placeItems t items 0 [] []
  (r.1.map fun p => (p.1, w.2 p.2.1.off, p.2.2),
   (firstFault (r.2 ++ tooLong items w.1.length)).map fun f => ⟨w.2 f.bad, w.2 f.off, f.code⟩)

end Sys2Proof.Machine
end

