-- ==== Sys2Proof/Machine/Fetch.lean ====
section
/-! DEFINITION. Fetch and issue: a primary's bundle (R17, R28, R29, R68, R87 to R91), a scavenger's turn (R34 to R38), the
holds and waits of blocking points (R47, R522), traps (R103, R370 to R375), and the end of a bundle or a turn. -/

namespace Sys2Proof.Machine

open Sys2Proof

/-! ## Fetching a bundle -/

/-- The trap code of an encoding fault. -/
def codeOfEnc : EncCode → BitVec 8
  | .resmaj => codeRESMAJ
  | .illop => codeILLOP
  | .orphan => codeORPHAN
  | .slotclash => codeSLOTCLASH

/-- What a fetch gives: the operations in their slots, each with its first word's address, the address after the bundle, and
the fault that it raises: code, sub-cause, `BADDR`, `WADDR`, `INFO`. -/
structure Fetched where
  ops : List IssOp
  next : Word
  fault : Option (BitVec 8 × BitVec 8 × Word × Word × Word)
  deriving DecidableEq, Repr

/-- Fetch, find the edges, decode and place (R68, R85, R87, R89, R90). `entry` is the address of the branch that entered the
bundle, `left` the item that a skip leaves out (R373). -/
def Core.fetchBundle (x : Core) (t : Thr) (pc : Word) (entry left : Option Word) : Fetched :=
  let at_ := pc.toNat / 4
  let code := x.codeOf t
  let ws := bundleWords (code.drop at_)
  let next := BitVec.ofNat 64 (4 * (at_ + ws.length))
  match ws with
  | [] => ⟨[], pc, some (codePROT, 5, pc, pc, pc)⟩
  | w :: _ =>
    if entry.isSome && !startsBundle w then ⟨[], next, some (codeMISTARGET, 0, entry.getD 0, pc, pc)⟩
    else if (scanItems 0 ws).any (fun it => it.needsMore) && at_ + ws.length == code.length then
      ⟨[], next, some (codePROT, 5, pc, next, next)⟩
    else
      let r := checkBundle t ws (left.map fun a => (a.toNat - 4 * at_) / 4)
      let ops := r.1.map fun p => (⟨p.1, BitVec.ofNat 64 (4 * (at_ + p.2.1)), p.2.2⟩ : IssOp)
      ⟨ops, next, r.2.map fun f =>
        let waddr := 4 * (at_ + f.off)
        (codeOfEnc f.code, 0, pc, BitVec.ofNat 64 waddr,
          match f.code with
          | .resmaj | .illop => wordsInfo x t waddr
          | .orphan | .slotclash => (x.wordAt t (4 * (at_ + f.bad))).setWidth 64)⟩

/-- The slots that operations fill. -/
def slotsFilled (l : List IssOp) : BitVec 10 := l.foldl (fun m o => m ||| (1#10 <<< o.slot)) 0

/-- Whether an operation changes scratchpad data or a full-empty bit at its bundle: it performs after the bundle's loads
(R20, R142, R149). -/
def changesMemory (i : Instr) : Bool :=
  match i with
  | .st _ | .vst _ | .vsts _ | .vstx _ | .strel _ | .stf _ | .ldf _ | .ldfe _ | .atom _ | .cas _ => true
  | _ => false

/-- Whether an operation reads a control register: it reads before anything of its bundle changes one, a pop of a queue that `PORTQ` counts
included (R22, R131; DESIGN CHOICE, log 113). -/
def readsControl (i : Instr) : Bool := match i with | .mfc _ => true | _ => false

/-- Operations in the order in which they perform (R22, R142): first those that read control registers, then in slot order the others,
those that change memory last. -/
def performOrder (l : List IssOp) : List IssOp :=
  let bySlot := (List.range 10).flatMap fun n => l.filter fun o => o.slot == n
  let rest := bySlot.filter fun o => !readsControl o.instr
  (bySlot.filter fun o => readsControl o.instr) ++ (rest.filter fun o => !changesMemory o.instr) ++
    rest.filter fun o => changesMemory o.instr

/-! ## Fault records -/

/-- A record of a fault of a thread (R370, R371): the latches and the results in flight stand as they are now. -/
def State.faultRec (s : State) (c : CoreId) (t : Thr) (code sub : BitVec 8) (slot : Nat) (baddr waddr info : Word) (elem : Nat)
    (done pres : BitVec 10) (enc : Bool) : FaultRec :=
  let p := s.prim c
  let br := match t with | .prim => p.br | .scav _ => Pending.clear
  { code := code, sub := sub, slot := BitVec.ofNat 4 slot, baddr := baddr, waddr := waddr, info := info, stamp := s.tscOf c,
    bt1 := br.bt1Word, bt2 := br.bt2Word, done := done, pres := pres, drn := br.drn,
    cw2 := (s.core c).wordAt t (waddr.toNat + 8), elem := BitVec.ofNat 9 elem,
    latches := (match t with | .prim => p.regs.latch.toList | .scav _ => []),
    flight := (match t with | .prim => slotOrder p.flight | .scav _ => []), enc := enc, received := false, moved := false }

/-- An encoding fault halts the thread before any operation issues (R90). A skip's omission held for this one fetch (R373). -/
def State.encTrap (s : State) (c : CoreId) (t : Thr) (f : Fetched) (e : BitVec 8 × BitVec 8 × Word × Word × Word) : State :=
  let s := match t with
    | .prim => s.modPrim c fun p => { p with omitAt := none }
    | .scav k => s.modScav c k fun x => { x with omitAt := none }
  s.takeTrap c t (s.faultRec c t e.1 e.2.1 15 e.2.2.1 e.2.2.2.1 e.2.2.2.2 0 0 (slotsFilled f.ops) true)

/-! ## The primary's boundary -/

/-- Drop the steps due that would continue a primary's program. -/
def State.dropIssue (s : State) (c : CoreId) : State :=
  s.dropItems fun i => i.arg.core == c && i.arg.thr == .prim &&
    (i.what == .bundleFetch || i.what == .blockingPointRelease || i.what == .qstall || i.what == .fewait ||
     i.what == .portstall || i.what == .drainWaitEnd || i.what == .bodyEntry || i.what == .resultLanding)

/-- A capture begins (R377, R379): the primary issues nothing more. `n` = 1 marks the capture of an idle primary (R369). -/
def State.beginCapture (s : State) (c : CoreId) (cause : BitVec 8) : State :=
  ((s.dropIssue c).modPrim c fun p => { p with mode := .capturing, hold := none, marks := [] }).after 0 1 .captureStart
    { EvArg.ofCore c with k := cause.toNat, n := if (s.prim c).mode == .idle then 1 else 0 }

/-- Whether a supervisor's handler is to be entered (R369). -/
def State.handlerDue (s : State) (c : CoreId) : Bool :=
  let k := (s.core c).ctl
  isSupervisor c && k.svrb.getLsbD 63 && k.svTail != k.svHead && !k.svAct && !k.svHold

/-- The primary's receive queues are empty and every credit of its pushes has returned (R378). -/
def State.portsQuiet (s : State) (c : CoreId) : Bool :=
  (List.range 4).all fun d => (vget (s.prim c).portq d).isEmpty &&
    ((s.neighbour c d).isNone || vget (s.prim c).credits d == 8)

/-- Whether a context that is captured here already can go to a save slot (R381). -/
def State.canSave (s : State) (c : CoreId) : Bool :=
  match (s.core c).cap with
  | none => true
  | some k => match k.keep.task with
    | none => false
    | some t => (s.term.launches.find? fun p => p.1 == t.launch).any fun p => p.2.save != 0

/-- The cause of a capture that is taken at this boundary (R369, R377, R378). A replay is one issue with its bundle, so none is
taken before it. -/
def State.captureDue (s : State) (c : CoreId) : Option (BitVec 8) :=
  let x := s.core c
  if x.prim.replay ≠ 0 || x.ckpt.isSome || x.move.isSome then none
  else if s.handlerDue c then some 0x12
  else match x.capReq with
    | some (cause, _) => if s.portsQuiet c then some cause else none
    | none => if x.moveReq.isSome && s.canSave c then some 0x14 else none

/-- A migration takes a primary at its boundary (R511): it issues nothing more. -/
def State.beginMove (s : State) (c : CoreId) : State :=
  ((s.dropIssue c).modPrim c fun p => { p with mode := .capturing, hold := none, marks := [] }).after 0 1 .migration { EvArg.ofCore c with k := 1 }

/-! ## Registers with an uncorrectable error (R514) -/

/-- The file of R270 and the number of the register that a source field names; none for one that is read from no storage. -/
def fieldReg (kind : FK) (x : BitVec 6) (latch hi : Bool) : Option (Nat × Nat) :=
  if kind == .zero || kind == .tile || kind == .st || kind == .tag || kind == .cond || kind == .num || kind == .r then none
  else if latch then
    if isLatchCode x then some (6, x.toNat) else if isBcCode x then some (0, (bcReg x hi).toNat) else none
  else match kind with
    | .v | .dat => some (2, x.toNat)
    | .k => if x = 0 then none else some (3, x.toNat)
    | .p | .q => if x = 0 then none else some (1, x.toNat)
    | _ => if x = 0 then none else some (0, x.toNat)

/-- Whether a V-class operation takes the write mask of `x12`[11:8] (R162). -/
def takesMask (i : Instr) : Bool :=
  match i with
  | .vext _ | .vins _ | .vhist _ | .klog _ | .vpopk _ => false
  | _ => i.cls? == some .v

/-- Whether an operation reads its destination register too: data to be stored, or elements that it leaves as they were (R136, R165, R184). -/
def readsDst (i : Instr) (o : Op) : Bool :=
  match i with
  | .st _ | .strel _ | .stf _ | .vst _ | .vsts _ | .vstx _ | .vins _ => true
  | .vld _ | .vlds _ | .vldb _ | .vldx _ => o.c != 0
  | .vcmp _ | .vsel _ | .vred _ | .vscan _ | .vcompr _ => false
  | _ => takesMask i && o.xbits 8 4 != 0

/-- The registers and latches that a primary's operation reads, each as its file of R270 and its number, its predicate's aside. -/
def opReads (i : Instr) (o : Op) : List (Nat × Nat) :=
  let f := fieldsOf i o
  [fieldReg f.a o.a o.la o.xa, fieldReg f.b o.b o.lb o.xb, fieldReg f.c o.c o.lc o.xc,
   if readsDst i o then fieldReg f.dst o.dst false false else none,
   if takesMask i && o.xbits 8 4 != 0 then some (3, o.xbits 8 4) else none].filterMap id ++
  (match i with | .pmov _ => if o.xbits 0 2 = 1 then (List.range 16).map fun n => (1, n) else [] | _ => [])

/-- The register with an uncorrectable error that an operation reads: its predicate, else a register that it reads when it executes. -/
def Prim.badRead (p : Prim) (o : IssOp) : Option Word :=
  match o.instr.op? with
  | none => none
  | some op =>
    let reads := (1, op.pred.toNat) ::
      (if p.regs.rdP op.pred.toNat != op.pneg then opReads o.instr op else [])
    p.regErr.find? fun e => reads.any fun r => selFile e == r.1 && selNum e == r.2

/-- An operation that reads a register with an uncorrectable error faults (R514). What it pops goes back, as at every fault of an operation
(R168). -/
def State.readError (s : State) (o : IssOp) (sel : Word) : State :=
  let s := { s with iss := { s.iss with slot := o.slot, waddr := o.waddr } }
  match o.instr.op? with
  | none => s
  | some op =>
    if s.holds op then
      s.withPops op fun s =>
        (State.oweBack s ((popDirs op).foldl (fun s d => (s.popPrim s.iss.core d).2) s)).raise codePROT 10 sel 0
    else s.raise codePROT 10 sel 0

/-- Issue the next bundle, or the incomplete operations of one (R17, R21, R372, R374). -/
def State.issueNext (s : State) (c : CoreId) : State :=
  let x := s.core c
  let p := x.prim
  let f := x.fetchBundle .prim p.pc p.entryFrom p.omitAt
  match f.fault with
  | some e => s.encTrap c .prim f e
  | none =>
    let s := if p.replay = 0 then s.landCtlNow c else s
    let todo := if p.replay = 0 then f.ops else f.ops.filter fun o => p.replay.getLsbD o.slot
    { s with iss := { Issue.idle with live := true, core := c, thr := .prim, baddr := p.pc, next := f.next,
                                               ops := performOrder todo, pres := slotsFilled f.ops, turn := s.clock c, stamp := s.tscOf c } }

/-- The results in flight count as the primary's bundle performs, once for a bundle and its replays (R21, R372); what its operations then read
with an uncorrectable error is marked (R514). -/
def State.beginBundle (s : State) : State :=
  match s.iss.thr with
  | .scav _ => s
  | .prim =>
    let c := s.iss.core
    let s := if (s.prim c).replay = 0 then s.tick c else s
    let s := match (s.prim c).regErr with
      | [] => s
      | _ => { s with iss := { s.iss with bad := s.iss.ops.filterMap fun o => ((s.prim c).badRead o).map fun e => (o.slot, e) } }
    s.modPrim c fun p => { p with entryFrom := none, lastSlots := slotsFilled s.iss.ops, lastIssue := s.clock c }

/-- A primary at a bundle boundary: a capture that is due is taken, else the next bundle issues. -/
def State.attempt (s : State) (c : CoreId) : State :=
  let p := s.prim c
  if (p.mode == .running || p.mode == .drain) && (s.tile (s.tileOf c)).supply == .on then
    let s := (s.stopTicks c).modPrim c fun p => { p with mode := .running, owesDrain := false }
    match s.captureDue c with
    | some cause => if cause = 0x14 then s.beginMove c else s.beginCapture c cause
    | none => s.issueNext c
  else s

/-! ## The end of a bundle -/

/-- A branch is taken (R28): one bundle follows before its target, or the target of a branch before it. -/
def Pending.take (b : Pending) (target : Word) (drn : Bool) (src : Word) : Pending :=
  match b.bt1 with
  | none => { b with bt1 := some target, gap := true, drn := drn, src1 := src }
  | some _ => { b with bt2 := some target, drn2 := drn, src2 := src }

/-- Where the bundle after this one lies: address, the branch that enters it, whether a drain wait comes first, and what
stays pending (R28, R375). -/
def Pending.next (b : Pending) (seq : Word) : Word × Option Word × Bool × Pending :=
  if b.gap then (seq, none, false, { b with gap := false })
  else match b.bt1 with
    | none => (seq, none, false, b)
    | some t => (t, some b.src1, b.drn,
        { bt1 := b.bt2, gap := false, drn := b.drn2, src1 := b.src2, bt2 := none, drn2 := false, src2 := 0 })

/-- The primary goes on `d` cycles from now, after a drain wait if one is owed (R29). -/
def State.goOn (s : State) (c : CoreId) (d : Nat) : State :=
  let p := s.prim c
  if p.mode != .running then s
  else if p.owesDrain then
    let s := s.modPrim c fun p => { p with mode := .drain }
    let s := if p.drainLen = 0 then s else (s.stopTicks c).after d 2 .resultLanding (EvArg.ofCore c)
    s.after (d + p.drainLen) 1 .drainWaitEnd (EvArg.ofCore c)
  else s.after d 1 .bundleFetch (EvArg.ofCore c)

/-- The bundle has issued whole: the program counter moves on. -/
def State.advance (s : State) (c : CoreId) (seq : Word) : State :=
  s.modPrim c fun p =>
    let n := p.br.next seq
    { p with pc := n.1, entryFrom := n.2.1, owesDrain := n.2.2.1, br := n.2.2.2, hold := none, replay := 0, omitAt := none }

/-- Whether a primary's fetcher has no coordinate to wait for (R110, R291). -/
def Prim.noneWaits (p : Prim) : Bool := match p.task with | none => true | some t => t.chunk.isEmpty && t.dry && !t.claiming

/-- A body run ends (R110, R286): its pending targets are discarded, the cycles to the next body entry count as drain-wait cycles, and
the unit's end is reported. The fetcher acts from the third cycle on; with no coordinate to wait for, the task ends once every result has
landed. -/
def State.endBody (s : State) (c : CoreId) : State :=
  let s := s.modPrim c fun p =>
    { p with br := Pending.clear, hold := none, replay := 0, omitAt := none, entryFrom := none, owesDrain := false,
             endOwed := false, mode := .entering }
  let s := s.startTicks c
  let s := match (s.prim c).task with
    | some t => if t.body then
        (s.modPrim c fun p => { p with task := some { t with body := false } }).sendBy c 1
          (s.toRoundhouse c (dieOfRec .launch t.launch)) 2 .unitEndReport { EvArg.ofCore c with n := t.launch }
        else s
    | none => s
  if (s.prim c).noneWaits then s.after 1 3 .bodyEntry (EvArg.ofCore c) else s.after 3 1 .bodyEntry (EvArg.ofCore c)

/-- A latency of the mesh as a core's own cycles (R504): ceil(latency × f / 1.7). -/
def State.seenWay (s : State) (c : CoreId) (way : Nat) : Nat := (way * (s.tile (s.tileOf c)).freq + 16) / 17

/-- A read of the window takes an entry of the injection buffer and travels; its bundle is held until the value returns, and the entry then
leaves (R218, R248, R271). `q` is the way, and the thread operand and the selector that the entry is known by. -/
def State.sendRead (s : State) (c : CoreId) (q : Nat × Word × Word) : State :=
  if 16 ≤ (s.core c).inj.length then s else
  let d := s.seenWay c (s.slotWait c + 2 * q.1)
  let p := { s.newPend c .prim .svres with tag := 64, id := (s.core c).nextId, ws := [1], a := q.2.1, c := q.2.2, bound := s.clock c + d }
  ((s.useSlot c 1).modCore c fun x => { x with inj := x.inj ++ [p], nextId := x.nextId + 1 }).afterOn c d 3 .engineOperationComplete
    { argId c p.id with k := 4 }

/-- The primary's bundle is held (R47): nothing of it has issued, and it is tried again in the next cycle, or its bound runs
out there. Join markers that it places are placed now (R231), and a read of the window sets out (R271). -/
def State.holdBundle (pre : State) (i : Issue) : State :=
  let c := i.core
  let p := pre.prim c
  let since := match p.hold with | some h => h.since | none => pre.clock c
  let s := pre.modPrim c fun p => { p with mode := .running, hold := some ⟨since, i.bound, i.bcode, 0⟩ }
  let s := (s.stopTicks c)
  let s := if i.marks = 0 then s
    else
      let r := s.placeMarkers c .prim i.marks.toNat
      r.2.setMarks c .prim r.1
  let s := match i.sends with
    | none => s
    | some q => s.sendRead c q
  let what : Instr :=
    if i.bcode ≠ 0 ∧ since + i.bound = pre.clock c + 1 then
      (if i.bcode = codeFEWAIT then .fewait else if i.bcode = codePORTSTALL then .portstall else .qstall)
    else .blockingPointRelease
  s.after 1 1 what (EvArg.ofCore c)

/-- A trap of the bundle (R103, R370): the operations that neither faulted nor waited are complete; a branch that it performed
stays pending, and a `PCKPT` whose hold would come after it is incomplete. -/
def State.trapBundle (s : State) (r : Raised) : State :=
  let i := s.iss
  let c := i.core
  let held := if (s.prim c).mode == .checkpoint then 1#10 <<< 9 else 0
  let s := s.putAllBack c .prim i.putBack
  let s := s.modCore c fun x => if held = 0 then x else { x with ckpt := none }
  let s := s.modPrim c fun p => { p with hold := none, marks := [], endOwed := p.endOwed || i.ended }
  s.takeTrap c .prim (s.faultRec c .prim r.code r.sub r.slot i.baddr r.waddr r.info r.elem
    (i.pres &&& ~~~(i.faulted ||| i.waited ||| held)) i.pres false)

/-- A bundle has been performed whole: the body ends, or the primary goes on; after `PCKPT` its hold begins, with that operation alone
incomplete (R263). -/
def State.finishBundle (s : State) (c : CoreId) (seq : Word) (ended : Bool) : State :=
  if (s.prim c).mode == .checkpoint then
    (s.modPrim c fun p => { p with replay := 1#10 <<< 9, endOwed := p.endOwed || ended }).after 1 1 .checkpointFreeze (EvArg.ofCore c)
  else if ended || (s.prim c).endOwed then s.endBody c else (s.advance c seq).goOn c 1

/-- The end of a primary's bundle: held, trapped, ended by `TEND` or `ERET`, or performed; `base` is the state before it. -/
def State.endBundle (base s : State) : State :=
  let i := s.iss
  let c := i.core
  if i.again && !i.expired then base.holdBundle i
  else
    let s := match i.taken with
      | some t => s.modPrim c fun p => { p with br := p.br.take t.1 t.2 i.branchAt }
      | none => s
    let s := s.modPrim c fun p => { p with spacing := max p.spacing i.spacing }
    match i.raised with
    | some r => s.trapBundle r
    | none =>
      if i.eret then
        ((s.advance c i.next).modPrim c fun p => { p with mode := .capturing }).after 160 1 .contextResume (EvArg.ofCore c)
      else s.finishBundle c i.next i.ended

/-! ## A scavenger's turn (R34 to R38) -/

/-- One more in a residue register, which saturates (R38). -/
def State.residue (s : State) (c : CoreId) (k : Fin 8) (r : Nat) : State :=
  s.modScav c k fun x =>
    { x with res := vset x.res r (if vget x.res r = BitVec.allOnes 32 then vget x.res r else vget x.res r + 1) }

/-- The slots a scavenger's operation may take, in order (R35). -/
def scavSlots (i : Instr) : List Nat :=
  match i.cls? with
  | some .l => [4, 5]
  | some .x => [9]
  | _ => [2, 3]

/-- The slots that the primary's bundle of this cycle leaves empty (R34). -/
def State.emptySlot (s : State) (c : CoreId) (n : Nat) : Bool :=
  let p := s.prim c
  !(p.lastIssue == s.clock c && p.lastSlots.getLsbD n)

/-! ## Windows (R36, R140, R522) -/

/-- Whether a field of this kind names a register that is read. -/
def FK.reads (f : FK) : Bool := f == .s || f == .q

/-- The registers that a scavenger's operation reads, in their order (R36): fields `a`, `b`, `c`, then a store's data register. Each field
makes a read of its own, one that names a register named before too (log 81). Field `b` at 0 is no index (R136) and no amount (R237). -/
def sourceRegs (i : Instr) (o : Op) : List (BitVec 6) :=
  let f := fieldsOf i o
  let noB := o.b == 0 && (match i with | .atom _ | .cas _ => false | .decr _ => true | _ => i.cls? == some .l)
  (if f.a.reads && !o.la then [o.a] else []) ++ (if f.b.reads && !o.lb && !noB then [o.b] else []) ++
    (if f.c.reads && !o.lc then [o.c] else []) ++
    (match i with | .st _ | .strel _ | .stf _ | .stc _ => [o.dst] | _ => [])

/-- How many doublewords an operation reads as its arguments (R239). -/
def argCount (i : Instr) (o : Op) : Nat := match i with | .send _ | .spawn _ => o.xbits 0 3 | _ => 0

/-- The memory access that performs a scavenger's operation (R31, R36, R443): none, one without a bank port, or the program address
whose bank it needs. `left` arguments are still to be read before the last. -/
def State.memAccess (s : State) (k : Fin 8) (i : Instr) (o : Op) (left : Nat) : Option (Option Nat) :=
  let at_ := fun (p : Nat) => if p < 2 ^ 21 then some (some p) else some none
  match i with
  | .ld _ | .st _ | .ldacq _ | .strel _ | .ldf _ | .stf _ | .ldfe _ => at_ (s.ea o).toNat
  | .atom _ | .cas _ => at_ (s.eaBase o).toNat
  | .ldc _ | .stc _ | .flushc _ => some none
  | .send _ | .spawn _ =>
    if argCount i o = 0 then none else at_ ((s.valS o.b o.lb).toNat + 8 * (argCount i o - 1 - left))
  | .ratom _ => if o.modifier = 10 then at_ (s.valS o.c o.lc).toNat else none
  | .setwp _ => at_ ((s.scav s.iss.core k).wp.toNat + 0x100)
  | .push _ | .pusht _ => if o.la then some none else at_ (hAddr (s.scav s.iss.core k).wp o.a)
  | _ => none

/-- Change a thread's window. -/
def State.modWin (s : State) (c : CoreId) (k : Fin 8) (f : Win → Win) : State :=
  s.modScav c k fun x => { x with win := x.win.map f }

/-- The window's next access is tried in the next cycle; accesses of one cycle stand in the order of their turns (R142). -/
def State.againNext (s : State) (c : CoreId) (k : Fin 8) (turn : Nat) : State :=
  s.after 1 (5 + turn) .scavengerAccessRetry (argThr c (.scav k))

/-- The state of a thread whose window closes: counted turns that have all passed leave it ready. -/
def ScavSt.settled : ScavSt → ScavSt
  | .yielding 0 | .forfeit 0 => .ready
  | st => st

/-- The window closes: the thread goes on in its next state, and the dispenser looks at one that waits (R299). A change of `WP` leaves a thread
that was not ready as it is. -/
def State.closeWin (s : State) (c : CoreId) (k : Fin 8) : State :=
  let s := s.modScav c k fun x =>
    match x.win, x.st with
    | some w, .notReady _ => { x with win := none, st := w.after.settled }
    | some w, st => { x with win := none, st := if w.op.isSome then w.after.settled else st }
    | none, _ => x
  if (s.scav c k).st = .waiting then s.after 1 3 .dispatch (EvArg.ofCore c) else s

/-- The bound of a scavenger's wait has run out: the thread halts at its operation, which has had no effect (R47, R151, R219). -/
def State.waitTrap (s : State) (c : CoreId) (k : Fin 8) (h : Hold) : State :=
  let x := s.scav c k
  s.takeTrap c (.scav k) (s.faultRec c (.scav k) h.code 0 x.slot x.pc x.pc (BitVec.ofNat 64 h.info) 0 0 (1#10 <<< x.slot) false)

/-- A residue register that the operation of a window has read and cleared holds its count again (R36, R134). -/
def State.unread (s : State) (c : CoreId) (k : Fin 8) (w : Win) : State :=
  match w.op, w.got with
  | some o, q :: _ =>
    match o.instr with
    | .rdres op => s.modScav c k fun x => { x with res := vset x.res (op.xbits 0 3) (vget x.res (op.xbits 0 3) + q.2.setWidth 32) }
    | _ => s
  | _, _ => s

/-- An access finds no free port: it is tried in the next cycle; or the limit has passed, and the operation issues again at the thread's
next turn (R36, R38 row 5), as a change of `WP` does (R31); or the bound of its wait has run out (R47). -/
def State.missPort (s : State) (c : CoreId) (k : Fin 8) (w : Win) : State :=
  if !w.done && !w.late && decide (w.turn + 7 ≤ s.clock c) then
    let s := ((s.unread c k w).residue c k 1).closeWin c k
    if w.op.isNone then s.atTurn c k (s.clock c + 1) 4 .wpSwitch else s
  else
    match (s.scav c k).wait with
    | some h =>
      if w.late && !w.done && h.code != 0 && decide (h.since + h.bound ≤ s.clock c) then s.waitTrap c k h else s.againNext c k w.turn
    | none => s.againNext c k w.turn

/-- The bank address of a destination access. -/
def Dest.place : Dest → Nat
  | .reg p _ _ => p
  | .pc w => w.toNat + 0x100

/-- A destination access performs (R31, R36, R130). -/
def State.doDest (s : State) (c : CoreId) (k : Fin 8) (d : Dest) : State :=
  match d with
  | .reg p x flg => (s.modScav c k fun h => { h with fpstat := h.fpstat ||| flg }).writeProg c (s.sbt c) true p (natToBytes 8 x.toNat)
  | .pc w => s.takeWp c k w

/-- What is left of a performed operation's destination accesses: with none, the window closes. -/
def State.destsLeft (s : State) (c : CoreId) (k : Fin 8) (w : Win) (ds : List Dest) : State :=
  let s := s.modWin c k fun _ => { w with done := true, dests := ds, last := s.clock c }
  if ds.isEmpty then s.closeWin c k else s.againNext c k w.turn

/-- The operation of a window as the issue in progress: it performs now. -/
def State.performWin (s : State) (c : CoreId) (k : Fin 8) (w : Win) (o : IssOp) (mem : Bool) : State :=
  { s with iss := { Issue.idle with live := true, core := c, thr := .scav k, baddr := (s.scav c k).pc, next := w.next, ops := [o],
                                    slot := o.slot, waddr := o.waddr, pres := 1#10 <<< o.slot, turn := w.turn, stamp := w.stamp,
                                    got := w.got, mem := mem } }

/-- The latency of an operation whose result takes longer than a window (R19, R36). -/
def longLat (i : Instr) : Option Nat :=
  match i with
  | .div _ | .divn _ | .rem _ | .remn _ => some 18
  | .fdiv _ | .fsqrt _ => some 14
  | _ => none

/-- Whether an operation pops a queue (R443): it performs in the cycle of its result write. -/
def popsQueue (i : Instr) (o : Op) : Bool := (match i with | .pop _ | .popt _ => true | _ => false) || !(popDirs o).isEmpty

/-- The window after its last source read in a cycle: the result write of a long operation that pops comes L cycles on (R36, R443). -/
def Win.sourcesRead (w : Win) (o : IssOp) (op : Op) (now : Nat) : Win :=
  match longLat o.instr with
  | some l => if popsQueue o.instr op then { w with last := now + l - 1, late := true } else w
  | none => w

/-- A `PUSH` whose credit has not come waits before it reads its data register (R445). -/
def State.pushWaits (s : State) (c : CoreId) (k : Fin 8) (i : Instr) : Bool :=
  match i with
  | .push o => (s.neighbour c (o.xbits 0 2)).isSome && s.credit c (.scav k) (o.xbits 0 2) == 0
  | _ => false

/-- Whether the bit of a full-empty access is the one it waits for: it then has no bound that runs out (R47, R151). -/
def State.bitRight (s : State) (i : Instr) : Bool :=
  match i with
  | .ldf o => s.isFull (s.keyOf (s.ea o).toNat)
  | .stf o => !s.isFull (s.keyOf (s.ea o).toNat)
  | _ => true

/-- One cycle of a window (R36, R522): the next access takes a port of its bank if one is free, and the operation performs with its
memory access, or, where it has none, once its sources are read; one that pops with its result write (R443). -/
def State.windowStep (s : State) (c : CoreId) (k : Fin 8) : State :=
  match (s.scav c k).win with
  | none => s
  | some w =>
    if w.done then
      match w.dests with
      | [] => s
      | d :: ds =>
        match s.takePort c d.place with
        | none => s.againNext c k w.turn
        | some t => (t.doDest c k d).destsLeft c k w ds
    else match w.op with
    | none =>
      match (s.scav c k).pendWp with
      | none => s.closeWin c k
      | some v =>
        let old := (s.scav c k).wp.toNat + 0x100
        match s.takePort c old with
        | none => s.missPort c k w
        | some t =>
          ((t.modScav c k fun x => { x with pendWp := none }).writeProg c (t.sbt c) true old
            (natToBytes 8 (t.scav c k).pc.toNat)).destsLeft c k w [.pc v]
    | some o =>
      let op := (o.instr.op?).getD ⟨true, .none, 0, false, false, 0, 0, 0, 0, false, false, false, 0, 0, 0⟩
      match w.todo with
      | r :: l =>
        if s.clock c ≤ w.last then s.againNext c k w.turn
        else match s.takePort c (hAddr (s.scav c k).wp r) with
          | none => s.missPort c k w
          | some t =>
            let w := { w with todo := l, got := w.got ++ [(r, t.rdH c k r)], last := t.clock c }
            let w := if l.isEmpty then w.sourcesRead o op (t.clock c) else w
            let t := t.modWin c k fun _ => w
            if l.isEmpty && !popsQueue o.instr op && ((t.performWin c k w o false).memAccess k o.instr op 0).isNone then
              t.performWin c k w o false
            else t.againNext c k w.turn
      | [] =>
        match (s.performWin c k w o true).memAccess k o.instr op w.extra with
        | none =>
          if popsQueue o.instr op && decide (s.clock c ≤ w.last) then s.againNext c k w.turn
          else s.performWin c k w o false
        | some p =>
          if s.clock c ≤ w.last then s.againNext c k w.turn
          else if s.pushWaits c k o.instr then s.performWin c k w o true
          else match (match p with | some a => s.takePort c a | none => some s) with
            | none => if w.late && (s.performWin c k w o true).bitRight o.instr then s.againNext c k w.turn else s.missPort c k w
            | some t =>
              let u := { w with extra := w.extra - 1, last := t.clock c }
              let t := t.modWin c k fun _ => u
              if w.extra = 0 then t.performWin c k u o true else t.againNext c k w.turn

/-- Whether an operation finds its queue, the injection buffer or the deque full (R217 to R219): the code of `INFO` (R373). A turn
without a token that meets one counts under row 6 of R38, which stands before row 7. -/
def State.fullFor (s : State) (c : CoreId) (i : Instr) : Option Nat :=
  let x := s.core c
  let q := fun (q : QKind) => if q.size ≤ (x.queue q).length then some q.code else none
  match i with
  | .xcp _ | .xcp2 _ => q .cp
  | .xga _ | .xsc _ | .xkvg _ => q .ga
  | .xfence o => (queueSet (o.xbits 0 4)).findSome? q
  | .ratom _ | .decr _ | .rldf _ | .rstf _ | .send _ => if 16 ≤ x.inj.length then some 5 else none
  | .spawn _ => if 64 ≤ (s.tile (s.tileOf c)).deque.length then some 6 else none
  | _ => none

/-- Whether an operation enters the injection buffer, so that its issue needs the injection slot (R218, R396). -/
def injects (i : Instr) : Bool :=
  match i with
  | .ratom _ | .decr _ | .rldf _ | .rstf _ | .send _ => true
  | _ => false

/-- What an operation has read in the cycle in which it issues (R134): a residue register, which it clears. -/
def State.readAtIssue (s : State) (c : CoreId) (k : Fin 8) (i : Instr) : List (BitVec 6 × Word) × State :=
  match i with
  | .rdres o =>
    let r := o.xbits 0 3
    ([(0, (vget (s.scav c k).res r).setWidth 64)], s.modScav c k fun x => { x with res := vset x.res r 0 })
  | _ => ([], s)

/-- A scavenger's next operation issues into an empty slot, with a token (R35, R506): its window opens. One of the injection buffer that
finds the slot taken by the primary class issues and is not performed (R396). -/
def State.turn (s : State) (c : CoreId) (k : Fin 8) : State :=
  let x := s.scav c k
  let f := (s.core c).fetchBundle (.scav k) x.pc x.entryFrom x.omitAt
  match f.fault with
  | some e => s.encTrap c (.scav k) f e
  | none =>
    match f.ops with
    | [] => s.modScav c k fun x => { x with pc := f.next, omitAt := none, entryFrom := none }
    | o :: _ =>
      match (scavSlots o.instr).find? fun n => s.emptySlot c n with
      | none => s.residue c k 0
      | some n =>
        let tile := s.tileOf c
        let taken := injects o.instr && decide (s.cycle < (s.core c).slotUntil)
        if (s.tile tile).tokens = 0 then s.residue c k (if taken || (s.fullFor c o.instr).isSome then 3 else 4)
        else
          let s := s.modTile tile fun t => { t with tokens := t.tokens - 1, scavE := t.scavE + 40 }
          let o := { o with slot := n }
          let op := (o.instr.op?).getD ⟨true, .none, 0, false, false, 0, 0, 0, 0, false, false, false, 0, 0, 0⟩
          let s := s.modScav c k fun x => { x with slot := n, entryFrom := none }
          if taken then s.residue c k 3
          else
            let r := s.readAtIssue c k o.instr
            let w : Win := { turn := s.clock c, last := s.clock c, op := some o, next := f.next, todo := sourceRegs o.instr op, got := r.1
                             extra := argCount o.instr op - 1, done := false, dests := [], late := false, stamp := s.tscOf c
                             after := .ready }
            let w := if w.todo.isEmpty then w.sourcesRead o op w.turn else w
            (r.2.modScav c k fun x => { x with st := .notReady false, win := some w }).windowStep c k

/-- The step in which a scavenger's wait is tried again: its bound may run out there (R47, R522). -/
def retryStep (h : Hold) (t : Nat) : Instr :=
  if h.code ≠ 0 ∧ h.since + h.bound ≤ t then
    (if h.code = codeFEWAIT then .fewait else if h.code = codePORTSTALL then .portstall else .qstall)
  else .scavengerAccessRetry

/-- A fault of a scavenger's operation (R103, R370): the thread halts at it. After `TRAP` or `SYS` the next operation is the
resume point (R373). -/
def State.trapTurn (s : State) (k : Fin 8) (r : Raised) : State :=
  let i := s.iss
  let c := i.core
  let s := s.putAllBack c (.scav k) i.putBack
  let past := i.faulted = 0 && i.waited = 0
  let s := if past then s.modScav c k fun x => { x with pc := i.next, omitAt := none } else s
  s.takeTrap c (.scav k) (s.faultRec c (.scav k) r.code r.sub r.slot i.baddr r.waddr r.info r.elem
    (i.pres &&& ~~~(i.faulted ||| i.waited)) i.pres false)

/-- The thread's program counter moves past a performed operation, and its window goes on with its destination accesses. -/
def State.performedTurn (s : State) (k : Fin 8) (w : Win) (ds : List Dest) : State :=
  let i := s.iss
  let c := i.core
  let s := s.modScav c k fun x =>
    { x with wait := none, omitAt := none
             pc := match i.taken with | some t => t.1 | none => i.next
             entryFrom := i.taken.map fun _ => i.branchAt
             st := .notReady false }
  if i.lands then s.modWin c k fun _ => { w with done := true, dests := ds, last := s.clock c } else s.destsLeft c k w ds

/-- The end of a scavenger's operation in this cycle: it faults, waits, is denied, is performed, or has to wait for the port of its
destination, in which case nothing of it has happened; one whose condition has held after a wait is performed, and only its write waits for
the first free port, and one that pops does both when the port is free (R443, R522); `base` is the state before it. -/
def State.endTurn (base s : State) (k : Fin 8) : State :=
  let i := s.iss
  let c := i.core
  match i.raised with
  | some r => s.trapTurn k r
  | none =>
    let x := s.scav c k
    if i.again then
      match x.wait with
      | none => s
      | some h =>
        if x.st = .ready then
          let s := s.modScav c k fun x => { x with win := none }
          if h.since = s.clock c then s.after h.bound 4 .qstall { argThr c (.scav k) with n := h.since } else s
        else (s.modWin c k fun w => { w with late := true }).after 1 (5 + i.turn) (retryStep h (s.clock c + 1)) (argThr c (.scav k))
    else match x.win with
      | none => s
      | some w =>
        let w := { w with after := match x.st with | .notReady _ => .ready | y => y }
        match i.dests, i.mem || i.lands with
        | d :: ds, false =>
          match (if w.last < s.clock c then s.takePort c d.place else none) with
          | none =>
            if !w.late then base.missPort c k { w with after := .ready }
            else if w.op.any fun o => o.instr.op?.any (popsQueue o.instr) then base.againNext c k w.turn
            else s.performedTurn k w (d :: ds)
          | some t => (t.doDest c k d).performedTurn k w ds
        | ds, _ => s.performedTurn k w ds

/-- The end of the bundle or the operation being performed; `base` is the state in which its operations began. -/
def State.endIssue (base s : State) : State :=
  let base := { base with iss := Issue.idle }
  let s' := match s.iss.thr with
    | .prim => State.endBundle base s
    | .scav k => State.endTurn base s k
  { s' with iss := Issue.idle }

/-! ## The steps -/

/-- Fetch and issue (R68). -/
def execBundleFetch (s : State) : Out := .next (s.attempt s.evt.core)

/-- The first target bundle after a drain wait (R29). -/
def execDrainWaitEnd (s : State) : Out := .next (s.attempt s.evt.core)

/-- A held bundle is tried again (R47). -/
def execBlockingPointRelease (s : State) : Out := .next (s.attempt s.evt.core)

/-- The bound of a wait for a queue, a batch or a condition runs out (R47, R219, R234), unless the condition holds now. A
scavenger whose admission was denied since the first denial halts, unless the operation that has issued again finds a free place. -/
def execQstall (s : State) : Out :=
  let c := s.evt.core
  match s.evt.thr with
  | .prim => .next (s.attempt c)
  | .scav k =>
    let x := s.scav c k
    match x.wait, x.win with
    | some h, some w =>
      if w.late then .next (s.windowStep c k)
      else .next (if h.since = s.evt.n && (w.op.bind fun o => s.fullFor c o.instr).isSome then s.waitTrap c k h else s)
    | some h, none => .next (if h.since = s.evt.n && x.st = .ready then s.waitTrap c k h else s)
    | none, _ => .next s

/-- The bound of a full-empty wait runs out (R150, R151). -/
def execFewait (s : State) : Out :=
  match s.evt.thr with
  | .prim => .next (s.attempt s.evt.core)
  | .scav k => .next (s.windowStep s.evt.core k)

/-- The bound of a port wait runs out (R444, R445). -/
def execPortstall (s : State) : Out :=
  match s.evt.thr with
  | .prim => .next (s.attempt s.evt.core)
  | .scav k => .next (s.windowStep s.evt.core k)

/-- The next access of a scavenger's window, or its waiting one, is tried (R36, R522). -/
def execScavengerAccessRetry (s : State) : Out :=
  match s.evt.thr with
  | .prim => .next s
  | .scav k => .next (s.windowStep s.evt.core k)

/-- A turn of a thread's `YIELD` or forfeit has passed (R37, R267): after the last one the thread is ready in the next cycle. -/
def State.countTurn (s : State) (c : CoreId) (k : Fin 8) (n : Nat) (st : ScavSt) (ending : Instr) : State :=
  let s := s.modScav c k fun x => { x with st := st }
  if n ≤ 1 then s.after 1 0 ending (argThr c (.scav k)) else s

/-- The owned turns that a thread forfeits are the next two after the issue of the operation: those that pass while its result is still
on its way count among them (R37; log 99). -/
def ScavSt.passTurn : ScavSt → ScavSt
  | .forfeit n => .forfeit (n - 1)
  | st => st

/-- An owned turn (R34 to R38): the next one is due eight cycles on while the thread takes part in the rotation. A change of `WP` takes the
turn of a ready thread (R31). -/
def execBarrelTurn (s : State) : Out :=
  let c := s.evt.core
  match s.evt.thr with
  | .prim => .next s
  | .scav k =>
    let x := s.scav c k
    if x.st = .waiting ∨ x.st = .halted then .next s
    else
      let s := s.after 8 3 .barrelTurn (argThr c (.scav k))
      if (s.core c).frozen then .next s
      else match x.st with
        | .notReady mem =>
          let s := s.modWin c k fun w => { w with after := w.after.passTurn }
          .next (if mem then s.residue c k 2 else s)
        | .yielding n => .next (s.countTurn c k n (.yielding (n - 1)) .yieldEnd)
        | .forfeit n => .next (s.countTurn c k n (.forfeit (n - 1)) .normaliserForfeitEnd)
        | _ => .next (if x.pendWp.isSome || x.win.isSome then s else s.turn c k)

/-- A long result is ready (R36): its destination write takes the first free port from this cycle. `k` is the register, 64 for none,
`id` the flags that land with it. -/
def execScavengerLongResult (s : State) : Out :=
  let c := s.evt.core
  match s.evt.thr with
  | .prim => .next s
  | .scav k =>
    match (s.scav c k).win with
    | none => .next s
    | some w =>
      if s.evt.k < 64 then
        let d := Dest.reg (hAddr (s.scav c k).wp (BitVec.ofNat 6 s.evt.k)) s.evt.dw (BitVec.ofNat 6 s.evt.id)
        .next ((s.modWin c k fun w => { w with dests := [d] }).after 0 (5 + w.turn) .scavengerAccessRetry (argThr c (.scav k)))
      else .next (s.closeWin c k)

/-- A thread whose counted turns have passed is ready again. -/
def State.turnsOver (s : State) : State :=
  match s.evt.thr with
  | .prim => s
  | .scav k => s.modScav s.evt.core k fun x => { x with st := x.st.settled }

/-- The two forfeited turns have passed (R37). -/
def execNormaliserForfeitEnd (s : State) : Out := .next s.turnsOver

/-- The turns of a `YIELD` have passed (R267). -/
def execYieldEnd (s : State) : Out := .next s.turnsOver

/-- A pending change of `WP` is made at the thread's owned turn in place of an operation (R31): the store and the load take ports as an
operation's accesses do. An operation in flight completes first. -/
def execWpSwitch (s : State) : Out :=
  let c := s.evt.core
  match s.evt.thr with
  | .prim => .next s
  | .scav k =>
    let x := s.scav c k
    match x.pendWp with
    | none => .next s
    | some _ =>
      match x.st, x.win, (s.core c).frozen with
      | .notReady _, none, _ | _, some _, _ | _, none, true => .next (s.after 8 4 .wpSwitch (argThr c (.scav k)))
      | st, none, false =>
        let w : Win := { turn := s.clock c, last := s.clock c, op := none, next := 0, todo := [], got := [], extra := 0, done := false
                         dests := [], late := false, stamp := s.tscOf c, after := st }
        .next ((s.modScav c k fun x => { x with win := some w, st := if st = .ready then .notReady false else st }).againNext c k
          w.turn)

end Sys2Proof.Machine
end

