-- ==== Sys2Proof/Machine/Net.lean ====
section
/-! DEFINITION. The completion of engine and injection operations: tags, those of captured contexts included (R215, R382), the
order of the queues and their join markers (R217, R231), and the arrivals at neighbour ports (R443, R446). -/

namespace Sys2Proof.Machine

open Sys2Proof

/-! ## Tags -/

/-- The launch of a captured context. -/
def Captured.launch (k : Captured) : Option Nat := k.keep.task.map fun t => t.launch

/-- Change the captured context of a launch, in its frame place or in its save slot. -/
def State.modCaptured (s : State) (c : CoreId) (unit : Option Nat) (f : Captured → Captured) : State :=
  s.modCore c fun x =>
    { x with cap := x.cap.map (fun k => if k.launch == unit then f k else k)
             saved := x.saved.map fun k => if k.launch == unit then f k else k }

/-- The captured context of a launch. -/
def Core.captured (x : Core) (unit : Option Nat) : Option Captured :=
  (x.cap.toList ++ x.saved).find? fun k => k.launch == unit

/-- Write bytes to the physical scratchpad: the lines are dirty, the doublewords full (R148, R462). -/
def State.writePhys (s : State) (c : CoreId) (at_ : Nat) (bs : List Byte) : State :=
  let s := (s.writeKey (scratchKey c at_) bs).mend (scratchKey c at_) bs.length
  (List.range ((at_ % 64 + bs.length + 63) / 64)).foldl (fun s i =>
    let ln := (at_ / 64 + i) * 64
    (List.range 8).foldl (fun s j =>
      let a := ln + 8 * j
      if decide (at_ < a + 8) && decide (a < at_ + bs.length) then s.setFe (scratchKey c a) true else s) (s.markDirty c ln)) s

/-- Where a doubleword of a captured context's frame, or from `0x1_4000` on of its extension, stands: in its scratchpad and in way 15, or in
its save slot where that translates (R381, R382). -/
def State.frameAt (s : State) (c : CoreId) (k : Captured) (off : Nat) : Answer :=
  if k.slot then (s.answer c (k.frameAt + off) 8 false accCopy).1
  else .at_ (if off < 0x14000 then k.frameAt + off else l2Key c 15 (off - 0x14000)) 0

/-- Write a doubleword of a captured context's frame. -/
def State.writeFrame (s : State) (c : CoreId) (k : Captured) (off : Nat) (w : Nat) : State :=
  if !k.slot then s.writePhys c (k.frameAt - scratchKey c 0 + off) (natToBytes 8 w)
  else s.writeAt (s.frameAt c k off) true ⟨c.val, 0, 0⟩ (k.frameAt + off) (natToBytes 8 w)

/-- Offsets of a frame (R380). -/
def frameStamps : Nat := 0x11C00
def frameTags : Nat := 0x11E60
def frameTagst : Nat := 0x11E68

/-- A bit field of a doubleword replaced. -/
def withBits (w lo len v : Nat) : Nat := w - (w / 2 ^ lo % 2 ^ len) * 2 ^ lo + (v % 2 ^ len) * 2 ^ lo

/-- Write one bit field of a doubleword of a frame. -/
def State.frameBits (s : State) (c : CoreId) (k : Captured) (off lo len v : Nat) : State :=
  s.writeFrame c k off (withBits (bytesToNat (s.readAt (s.frameAt c k off) 8)) lo len v)

/-- The frame of a captured context shows a tag as it now stands (R382). A checkpoint that has frozen the scratchpad holds the write
(R462). -/
def State.frameTag (s : State) (c : CoreId) (k : Captured) (i : Nat) : State :=
  if (s.core c).still && !k.slot then
    s.modCore c fun x => { x with held := x.held ++ [{ due := s.cycle, prio := 2, what := .engineOperationComplete
                                                       arg := { argId c (k.launch.getD 0) with n := i, k := 3 } }] }
  else
    let t := vget k.keep.tags i
    let s := s.frameBits c k frameTags i 1 (if t.ready then 1 else 0)
    let s := s.frameBits c k (frameTagst + 8 * (i / 32)) (2 * (i % 32)) 2 t.status.toNat
    if t.ready then s.writeFrame c k (frameStamps + 8 * i) t.stamp.toNat else s

/-- A tag of a captured context changes in its count and, among the network-interface accesses of the cycle, in its frame (R142, R382). -/
def State.completeCaptured (s : State) (c : CoreId) (k : Captured) (i : Nat) (st : BitVec 2) : State :=
  let k := { k with keep := { k.keep with tags := vset k.keep.tags i ((vget k.keep.tags i).complete st s.tsc s.cycle) } }
  (s.modCaptured c k.launch fun _ => k).after 0 2 .engineOperationComplete { argId c (k.launch.getD 0) with n := i, k := 3 }

/-- An operation's tag completes (R215): the thread's own, or that of the captured context it belongs to (R382). A status of a
discarded context is dropped (R383). -/
def State.completeTag (s : State) (c : CoreId) (p : Pend) (st : BitVec 2) : State :=
  if 64 ≤ p.tag then s
  else if p.prot then
    match (s.core c).captured p.unit with
    | some k => s.completeCaptured c k p.tag st
    | none => s
  else s.modTag c p.thr p.tag fun t => t.complete st s.tsc s.cycle

/-! ## Queues (R217, R231) -/

/-- The queues in their order. -/
def allQueues : List QKind := [.cp, .ga, .co, .kv]

/-- Every entry of a core's queues and injection buffer. -/
def Core.pends (x : Core) : List Pend := x.qcp ++ x.qga ++ x.qco ++ x.qkv ++ x.inj

def Core.pend (x : Core) (id : Nat) : Option Pend := x.pends.find? fun p => p.id == id

/-- Change every queue and the injection buffer. -/
def Core.mapQueues (x : Core) (f : List Pend → List Pend) : Core :=
  { x with qcp := f x.qcp, qga := f x.qga, qco := f x.qco, qkv := f x.qkv, inj := f x.inj }

def Core.mapPend (x : Core) (id : Nat) (f : Pend → Pend) : Core :=
  x.mapQueues fun l => l.map fun p => if p.id == id then f p else p

def State.modPend (s : State) (c : CoreId) (id : Nat) (f : Pend → Pend) : State := s.modCore c fun x => x.mapPend id f

/-- Markers leave once every entry that they wait for has completed (R231): an older marker first, since a younger one may wait for it. -/
def Core.passMarkers (x : Core) : Core :=
  (((x.pends.filter fun p => p.kind == .marker).map Pend.id).foldl insertNat []).foldl (fun x id =>
    x.mapQueues fun l => l.filter fun p => p.id != id || p.kind != .marker || x.standing p.waits) x

/-- Markers pass, and each queue's head starts in the next cycle (R217, R231, R309). -/
def State.advanceQueues (s : State) (c : CoreId) : State :=
  let s := s.modCore c Core.passMarkers
  allQueues.foldl (fun s q =>
    match ((s.core c).queue q).head? with
    | some p => if p.started || p.kind == .marker then s else s.startHead c q p.id 1
    | none => s) s

/-- The issue stamp of a core's oldest incomplete `XKVG`. -/
def Core.oldestXkvg (x : Core) : Option Word :=
  ((x.qga.filter fun p => p.kind == .xkvg).map Pend.stamp).foldl (fun m w =>
    match m with | none => some w | some v => some (if w.toNat < v.toNat then w else v)) none

/-- Report a core's oldest gather to the Junction (R429). -/
def State.reportXkvg (s : State) (c : CoreId) : State :=
  s.sendBy c 1 (s.toTerminus c) 2 .xkvgLowWaterReport
    { EvArg.ofCore c with dw := ((s.core c).oldestXkvg).getD s.tsc, k := if (s.core c).oldestXkvg.isSome then 0 else 3 }

/-- An entry completes with a status and leaves (R215, R217); the Junction hears of a change of the oldest gather (R429). -/
def State.finishEntry (s : State) (c : CoreId) (p : Pend) (st : BitVec 2) : State :=
  let s := s.completeTag c p st
  let was := (s.core c).oldestXkvg
  let s := s.modCore c fun x => (x.mapQueues fun l => l.filter fun q => q.id != p.id).forgetOld
  let s := if (s.core c).oldestXkvg == was then s else s.reportXkvg c
  s.advanceQueues c

/-- The status of an entry that did not fail: RETRIED after a delayed translation (R215, R216). -/
def Pend.okStatus (p : Pend) : BitVec 2 := if p.err then 2 else if p.retried then 1 else 0

/-! ## Neighbour ports (R443, R446, R447) -/

/-- A pushed value can be popped from now on. -/
def execPortValueArrival (s : State) : Out :=
  let e := s.evt
  match s.putOff e.core false .portValueArrival with
  | some t => .next t
  | none =>
  match e.thr, e.load with
  | .prim, .vec v => .next (s.modPrim e.core fun p => { p with portq := vset p.portq e.k (vget p.portq e.k ++ [v]) })
  | .scav k, .none => .next (s.modScav e.core k fun p => { p with portq := vset p.portq e.k (vget p.portq e.k ++ [e.dw]) })
  | _, _ => .next s

/-- A credit returns. -/
def execPortCreditReturn (s : State) : Out :=
  let e := s.evt
  match e.thr with
  | .prim => .next (s.modPrim e.core fun p => { p with credits := vset p.credits e.k (vget p.credits e.k + 1) })
  | .scav k => .next (s.modScav e.core k fun p => { p with credits := vset p.credits e.k (vget p.credits e.k + 1) })

/-- A write of `PORTQ` discards the named queues' values and returns their credits (R446). -/
def execPortqFlush (s : State) : Out := .next (s.writePortq s.evt.core s.evt.thr s.evt.dw)

end Sys2Proof.Machine
end

