-- ==== Sys2Proof/Machine/Channels.lean ====
section
/-! DEFINITION. Messages and channels (R236, R239, R294 to R301), the tile dispenser and the deque (R299 to R303), and the
management of scavenger threads (R266 to R268, R298). -/

namespace Sys2Proof.Machine

open Sys2Proof

/-! ## Checks (R296) -/

/-- The channel and the generation that a message names (R236). -/
def Msg.chan (m : Msg) : Nat := Word.bits m.target 10 6
def Msg.gen (m : Msg) : BitVec 12 := BitVec.ofNat 12 (Word.bits m.target 16 12)

/-- Whether a channel admits a message (R296). -/
def Chan.admits (e : Chan) (m : Msg) : Bool := e.v && e.gen == m.gen

/-- The lowest free workspace slot of a channel (R294, R299). -/
def Chan.freeSlot (e : Chan) : Option Nat := (List.range (e.nws.toNat + 1)).find? fun k => !e.busy.getLsbD k

/-- Whether a message of the channel can be dispatched now (R297). -/
def Chan.open_ (e : Chan) : Bool := !e.blk && e.freeSlot.isSome

/-- A DEADLETTER record (R301). -/
def deadLetter (c : CoreId) (e : Chan) (m : Msg) (atDispatch : Bool) (now : Word) : Rec64 :=
  #v[BitVec.ofNat 64 (e.gen.toNat * 2 ^ 48 + m.src.toNat * 2 ^ 32 + c.val * 2 ^ 16 + (if atDispatch then 2 ^ 12 else 0) +
      (if e.v then 0 else 2 ^ 11) + m.orig.toNat * 2 ^ 8 + 0x20),
    m.target, m.stamp, now, m.args[0], m.args[1], m.args[2], m.args[3]]

/-- A message is dead-lettered at a core (R301). -/
def State.sendDeadLetter (s : State) (c : CoreId) (m : Msg) (atDispatch : Bool) : State :=
  s.sendRecord c (dieOf c) (deadLetter c ((s.core c).chan m.chan) m atDispatch s.tsc)

/-! ## The dispenser (R297, R299, R303) -/

/-- The order of the ready ring (R297): channel priority, arrival cycle, sender, host port A before B. -/
def ringBefore (x : Core) (p q : Nat × Msg) : Bool :=
  let k := fun (r : Nat × Msg) => (3 - (x.chan r.2.chan).pri.toNat, r.1, if r.2.src = 0x3FF then 1024 + r.2.orig.toNat else r.2.src.toNat)
  let a := k p
  let b := k q
  decide (a.1 < b.1) || (a.1 == b.1 && (decide (a.2.1 < b.2.1) || (a.2.1 == b.2.1 && decide (a.2.2 < b.2.2))))

/-- The first message of a list in an order. -/
def firstBy (before : (Nat × Msg) → (Nat × Msg) → Bool) : List (Nat × Msg) → Option (Nat × Msg)
  | [] => none
  | p :: l =>
    match firstBy before l with
    | none => some p
    | some q => if before q p then some q else some p

/-- The message of the ready ring that is to be dispatched (R297, R300). -/
def Core.ringPick (x : Core) : Option (Nat × Msg) :=
  firstBy (ringBefore x) (x.ring.filter fun p => (x.chan p.2.chan).open_)

/-- The deque's entries in the order in which a core looks at them (R303): its own, newest first, then the others, oldest
first. -/
def dequeOrder (c : CoreId) (l : List (Nat × Msg)) : List (Nat × Msg) :=
  (l.filter fun p => p.2.src == BitVec.ofNat 10 c.val).reverse ++ l.filter fun p => p.2.src != BitVec.ofNat 10 c.val

/-- The deque entry that a core takes or dead-letters (R303): a blocked channel and one without a free slot are passed over. -/
def Core.dequePick (x : Core) (c : CoreId) (l : List (Nat × Msg)) : Option (Nat × Msg) :=
  (dequeOrder c l).find? fun p => !(x.chan p.2.chan).admits p.2 || (x.chan p.2.chan).open_

/-- The waiting thread that takes a delivery (R299): the one whose owned turn comes first after the next cycle. -/
def State.pickThread (s : State) (c : CoreId) : Option (Fin 8) :=
  (List.finRange 8).foldl (fun best k =>
    let x := s.scav c k
    if x.st = .waiting ∧ x.freeFrom ≤ s.clock c ∧ x.win.isNone then
      match best with
      | none => some k
      | some b => if s.ownedTurn c k (s.clock c + 2) < s.ownedTurn c b (s.clock c + 2) then some k else some b
    else best) none

/-- The doublewords of a delivery (R299): program address and value, rising. -/
def deliveryWrites (at_ : Nat) (m : Msg) (entry : Word) : List (Nat × Word) :=
  [(at_, m.stamp), (at_ + 8, m.args[0]), (at_ + 16, m.args[1]), (at_ + 24, m.args[2]), (at_ + 32, m.args[3]), (at_ + 0x100, entry)]

/-- Perform up to `n` writes of a delivery in this cycle, each on a free port of its bank and past the operand guards (R202, R299): how many
performed. -/
def State.deliverWrites (s : State) (c : CoreId) : Nat → List (Nat × Word) → State × Nat
  | 0, _ => (s, 0)
  | _, [] => (s, 0)
  | n + 1, w :: l =>
    if s.guardEnd c (s.sbt c) w.1 8 ≠ 0 then (s, 0) else
    match s.takePort c w.1 with
    | none => (s, 0)
    | some t =>
      let r := State.deliverWrites (t.writeProg c (t.sbt c) true w.1 (natToBytes 8 w.2.toNat)) c n l
      (r.1, r.2 + 1)

/-- A cycle of a delivery (R299): up to three writes from the `n`-th on; the rest follow in the next cycle. With the last, the thread
has its workspace and its entry, and joins the rotation; a change of `WP` that is pending is made there (R31). -/
def State.deliverFrom (s : State) (c : CoreId) (k : Fin 8) (at_ : Nat) (m : Msg) (entry : Word) (n : Nat) : State :=
  let r := s.deliverWrites c 3 ((deliveryWrites at_ m entry).drop n)
  if n + r.2 < 6 then
    r.1.after 1 2 .deliveryComplete { argThr c (.scav k) with id := at_, n := n + r.2, dw := entry, load := .msg m }
  else
    (r.1.modScav c k fun x =>
      { x with wp := BitVec.ofNat 64 at_, pc := entry, st := .ready, entryFrom := some (BitVec.allOnes 64)
               omitAt := none, wait := none }).joinBarrel c k

/-- Begin a delivery (R299): the slot is taken, and the thread takes no other. -/
def State.deliver (s : State) (c : CoreId) (k : Fin 8) (m : Msg) : State :=
  let e := (s.core c).chan m.chan
  let i := e.freeSlot.getD 0
  let s := s.modCore c fun x => x.setChan m.chan { e with busy := e.busy ||| (1#8 <<< i) }
  let s := s.modScav c k fun x => { x with st := .notReady false, code := e.code, chan := some (m.chan, i) }
  s.deliverFrom c k (e.slotAt i) m e.entry 0

/-- The bits of `BUSY` as the threads hold slots (R294): after a loss of power or a resume they follow from the threads. -/
def Core.rebusy (x : Core) : Core :=
  { x with ttab := x.ttab.mapFinIdx fun i e _ =>
      { e with busy := x.scav.toList.foldl (fun (m : BitVec 8) h =>
          match h.chan with | some (ch, n) => if ch = i then m ||| (1#8 <<< n) else m | none => m) 0 } }

/-- Release the workspace slot that a thread's delivery took (R298). -/
def State.releaseSlot (s : State) (c : CoreId) (k : Fin 8) : State :=
  match (s.scav c k).chan with
  | none => s
  | some (ch, i) =>
    (s.modCore c fun y => y.setChan ch { y.chan ch with busy := (y.chan ch).busy &&& ~~~(1#8 <<< i) }).modScav c k fun x =>
      { x with chan := none }

/-- One dispatch of a core (R299): at most one delivery or dead letter in a cycle. -/
def State.dispatchCore (s : State) (c : CoreId) : State :=
  let x := s.core c
  if x.dispAt = s.clock c + 1 || x.frozen || (s.tile (s.tileOf c)).supply != .on then s
  else
    let tile := s.tileOf c
    match s.pickThread c with
    | none => s
    | some k =>
      let again := fun (s : State) => (s.modCore c fun x => { x with dispAt := s.clock c + 1 }).after 1 3 .dispatch (EvArg.ofCore c)
      match x.ringPick with
      | some p =>
        let s := s.modCore c fun x => { x with ring := x.ring.erase p }
        again (if (x.chan p.2.chan).admits p.2 then s.deliver c k p.2 else s.sendDeadLetter c p.2 true)
      | none =>
        match x.dequePick c (s.tile tile).deque with
        | some p =>
          let s := s.modTile tile fun t => { t with deque := t.deque.erase p }
          again (if (x.chan p.2.chan).admits p.2 then s.deliver c k p.2 else s.sendDeadLetter c p.2 true)
        | none => s

/-- The tile dispenser's work of a cycle: each core of the tile, the lower identifier first (R299, R303). -/
def execDispatch (s : State) : Out :=
  .next ((s.tileCores (s.tileOf s.evt.core)).foldl (fun s c => s.dispatchCore c) s)

/-- The further writes of a delivery perform (R299), unless a checkpoint has frozen the core: then they are held until it ends (R263). -/
def execDeliveryComplete (s : State) : Out :=
  match s.evt.thr, s.evt.load with
  | .scav k, .msg m =>
    if (s.core s.evt.core).still then .next (s.holdAt s.evt.core .deliveryComplete) else
    .next (s.deliverFrom s.evt.core k s.evt.id m s.evt.dw s.evt.n)
  | _, _ => .next s

/-! ## Arrival (R296, R297) -/

/-- The requester and the injection entry of a message of a core. -/
def Msg.entry (m : Msg) : CoreId × Nat := if m.orig = 0 then (coreOfNat m.src.toNat, m.ref) else (coreOfNat m.ref, m.ref / 1024)

/-- The port that posted a message. -/
def Msg.port (m : Msg) : HostPort := if m.orig = 3 then .portA else .portB

/-- The message that an entry has sent. -/
def State.mailOf (s : State) (c : CoreId) (id : Nat) : Option (Pend × Mail) :=
  ((s.core c).pend id).bind fun p => p.mail.map fun m => (p, m)
def State.modMail (s : State) (c : CoreId) (id : Nat) (f : Mail → Mail) : State :=
  s.modPend c id fun p => { p with mail := p.mail.map f }

/-- The messages that nothing holds at their interface any more leave it, the first sent first (R297). -/
def State.releaseMail (s : State) (c : CoreId) : State :=
  let held := (s.core c).inj.filter fun p => p.mail.any Mail.held
  (held.foldl (fun l p => insertNat l ((p.mail.map Mail.seq).getD 0)) []).foldl (fun s seq =>
    match (s.core c).inj.find? fun p => p.mail.any fun m => m.seq == seq with
    | some p => match p.mail with
      | some m => if (s.core c).stays p.thr m then s else (s.modMail c p.id fun m => { m with held := false }).postMail m
      | none => s
    | none => s) s

/-- A host port's message leaves the signal box (R484). -/
def State.postHost (s : State) (p : HostPort) (n : Nat) : State :=
  match vget (s.window p).slots n with
  | none => s
  | some m => s.after (s.toTerminus stationCore) 2 .messageArrival { EvArg.ofCore stationCore with port := p, load := .msg m }

/-- The signal box sends the messages that it held behind a refused one: up to the next that has been refused (R297, R484). -/
def State.releaseHost (s : State) (p : HostPort) : State :=
  ((s.window p).order.map Prod.fst).foldl (fun s n =>
    let before := (s.window p).order.takeWhile fun q => q.1 != n
    match (s.window p).order.find? fun q => q.1 == n with
    | some (_, refused, true) =>
      if before.any fun q => q.2.1 || q.2.2 then s
      else (s.modWindow p fun w => { w with order := w.order.map fun q => if q.1 = n then (n, refused, false) else q }).postHost p n
    | _ => s) s

/-- The answer of a message's arrival check goes back to where it came from (R237, R239, R297, R301): 0 accepted, 2 dead-lettered,
4 refused. A `SPAWN` is answered at its issue. -/
def State.answerMsg (s : State) (c : CoreId) (m : Msg) (code : Nat) : State :=
  match m.orig.toNat with
  | 2 => s
  | 0 | 1 =>
    let e := m.entry
    match s.mailOf e.1 e.2 with
    | none => s
    | some q =>
      let way := s.mailWay q.2
      if code = 4 then s.after way 2 .messageRefusalResend { argId e.1 e.2 with load := .msg m }
      else
        let home := if m.orig = 0 then 0 else s.wayInj e.1 q.1.a.toNat
        let s := (s.modMail e.1 e.2 fun n => { n with taken := true }).modPend e.1 e.2 fun p => { p with performed := true }
        (s.after way 2 .messageRefusalResend { argId e.1 e.2 with k := 3, load := .msg m }).afterSeen e.1 q.1.issued (way + home)
          { argId e.1 e.2 with n := code, k := 1 }
  | _ =>
    let p := m.port
    let way := s.toTerminus c
    if code = 4 then s.after way 2 .messageRefusalResend { EvArg.ofCore c with port := p, load := .msg m }
    else
      (s.modWindow p fun w =>
        { w with slots := vset w.slots m.ref none, order := w.order.filter fun q => q.1 != m.ref
                 dl := if code = 2 then w.dl + 1 else w.dl }).after way 2 .messageRefusalResend
        { EvArg.ofCore c with port := p, k := 2, load := .msg m }

/-- Whether an earlier message of the same thread, or of the same host port, from the same interface to this core has not been accepted
yet: its order holds this one back (R218, R297, R484). -/
def State.heldBack (s : State) (m : Msg) : Bool :=
  match m.orig.toNat with
  | 2 => false
  | 0 | 1 =>
    match s.mailOf m.entry.1 m.entry.2 with
    | some q => ((s.core m.entry.1).ahead q.1.thr q.2).any fun n => !n.taken
    | none => false
  | _ => !((s.window m.port).order.takeWhile fun q => q.1 != m.ref).isEmpty

/-- A message arrives (R296, R297, R299): it is dead-lettered, goes to a waiting thread, enters the ring, or is refused. -/
def execMessageArrival (s : State) : Out :=
  let c := s.evt.core
  match s.evt.load with
  | .msg m =>
    let e := (s.core c).chan m.chan
    match s.putOff c false .messageArrival with
    | some t => .next t
    | none =>
    if s.heldBack m then .next (s.answerMsg c m 4)
    else if !e.admits m then .next ((s.sendDeadLetter c m false).answerMsg c m 2)
    else
      let s1 := s.modCore c fun x => { x with ring := x.ring ++ [(s.cycle, m)] }
      if (s.core c).ring.length < 32 then .next ((s1.after 0 3 .dispatch (EvArg.ofCore c)).answerMsg c m 0)
      else
        let s2 := s1.dispatchCore c
        if (s2.core c).ring.length ≤ 32 then .next (s2.answerMsg c m 0) else .next (s.answerMsg c m 4)
  | _ => .next s

/-- A refusal reaches the interface that sent the message, which sends it again 16 cycles later (`k` = 1), or holds it behind an earlier one;
with `k` = 2 a host's message has been accepted, and with 3 another, and those held behind it go (R297). -/
def execMessageRefusalResend (s : State) : Out :=
  match s.evt.load with
  | .msg m =>
    if 3 ≤ m.orig.toNat then
      let again := fun (s : State) => s.after 16 2 .messageRefusalResend { s.evt with k := 1 }
      let p := m.port
      if s.evt.k = 2 then .next (s.releaseHost p)
      else if s.evt.k = 1 then
        let before := (s.window p).order.takeWhile fun q => q.1 != m.ref
        if before.any fun q => q.2.1 || q.2.2 then
          .next (s.modWindow p fun w => { w with order := w.order.map fun q => if q.1 = m.ref then (q.1, q.2.1, true) else q })
        else .next (s.postHost p m.ref)
      else .next (again (s.modWindow p fun w => { w with order := w.order.map fun q => if q.1 = m.ref then (q.1, true, q.2.2) else q }))
    else
      let e := m.entry
      match s.mailOf e.1 e.2 with
      | none => .next s
      | some q =>
        if s.evt.k = 3 then .next ((s.modMail e.1 e.2 fun n => { n with refused := false, held := false }).releaseMail e.1)
        else if s.evt.k = 0 then
          .next ((s.modMail e.1 e.2 fun n => { n with refused := true }).afterOn e.1 16 2 .messageRefusalResend { s.evt with k := 1 })
        else if (s.core e.1).stays q.1.thr q.2 then .next (s.modMail e.1 e.2 fun n => { n with held := true })
        else .next (s.postMail q.2)
  | _ => .next s

/-- A write of a channel entry (R294, R295): refused when it may not stand; the dispenser looks at the core again. The
writer's interface hears 0 for OK, 1 for ERROR. -/
def execTaskTableWrite (s : State) : Out :=
  let c := s.evt.core
  match s.writeTask c s.evt.n s.evt.dw with
  | some t => .next ((t.after 0 3 .dispatch (EvArg.ofCore c)).answerHost s.evt.port 0)
  | none => .next (s.answerHost s.evt.port 1)

/-! ## Scavenger management (R266 to R268, R298) -/

/-- The context ends (R266, R298): its resume address is stored as the destination write, in whose cycle the slot of the thread's
delivery is released; the thread can take a delivery from the next cycle on. -/
def execWaitw (op : Op) (s : State) : Out :=
  perform op s fun s =>
    let c := s.iss.core
    match s.iss.thr with
    | .prim => s
    | .scav k =>
      let s := { s with iss := { s.iss with dests := [.reg ((s.scav c k).wp.toNat + 0x100) s.iss.next 0] } }
      let s := (s.modScav c k fun x => { x with st := .waiting, freeFrom := s.clock c + 1 }).releaseSlot c k
      s.after 1 3 .dispatch (EvArg.ofCore c)

/-- Not ready for the next n owned turns (R267). -/
def execYield (op : Op) (s : State) : Out :=
  perform op s fun s =>
    match s.iss.thr with
    | .prim => s
    | .scav k => if op.x12 = 0 then s else s.modScav s.iss.core k fun x => { x with st := .yielding op.x12.toNat }

/-- The fault of a new workspace (R268), in the order of the rule: alignment and the end of the scratchpad, by the address bits [20:0]
(log 102); the bits above them, residence, protection. -/
def State.wpBad (s : State) (c : CoreId) (t : Thr) (w : Word) : Option (BitVec 8 × BitVec 8 × Word) :=
  if w.toNat % 8 ≠ 0 ∨ 2 ^ 21 < w.toNat % 2 ^ 21 + 264 then some (codeALIGN, 0, w)
  else if w.toNat / 2 ^ 21 ≠ 0 then some (codePROT, 1, w)
  else match spanProt (s.core c).ctl t true w.toNat 264 with
    | some f => some (codePROT, f.2, BitVec.ofNat 64 f.1)
    | none => (spanProt (s.core c).ctl t false w.toNat 264).map fun f => (codePROT, f.2, BitVec.ofNat 64 f.1)

/-- The thread changes its workspace (R31, R268): its next program counter goes to the old one, which is the operation's memory access,
and the new one's is taken as its destination access. -/
def execSetwp (op : Op) (s : State) : Out :=
  perform op s fun s =>
    let c := s.iss.core
    match s.iss.thr with
    | .prim => s
    | .scav k =>
      let x := s.srcS op.a op.la
      match s.wpBad c (.scav k) x.1 with
      | some f => s.raise f.1 f.2.1 f.2.2 0
      | none =>
        let s := x.2.writeProg c (s.sbt c) true ((s.scav c k).wp.toNat + 0x100) (natToBytes 8 s.iss.next.toNat)
        { s with iss := { s.iss with dests := [.pc x.1] } }

end Sys2Proof.Machine
end

