-- ==== Sys2Proof/Machine/Work.lean ====
section
/-! DEFINITION. Tile tasks, claims and body entries (R110, R286 to R292), the work records of the Roundhouses, launches and
cancels (R245, R247, R488 to R495). -/

namespace Sys2Proof.Machine

open Sys2Proof

/-! ## Grants: runs of linear indices -/

/-- How many indices a grant holds. -/
def grantLen (g : Grant) : Nat := (g.map Prod.snd).sum

/-- The first index of a grant, and the rest. -/
def grantPop : Grant → Option (Nat × Grant)
  | [] => none
  | (i, n) :: g => if n ≤ 1 then some (i, g) else some (i, (i + 1, n - 1) :: g)

/-- Put a run into a grant in rising order (R292). -/
def grantInsert : Grant → Nat × Nat → Grant
  | [], r => [r]
  | q :: g, r => if r.1 < q.1 then r :: q :: g else q :: grantInsert g r

/-- Append a returned chunk to another, in rising order (R292). -/
def grantMerge (g h : Grant) : Grant := h.foldl grantInsert g

/-! ## A launch record -/

/-- The nest dimensions (R495). -/
def WRec.nx (r : WRec) : Nat := Word.bits ((r.desc[1]?).getD 0) 0 20 + 1
def WRec.ny (r : WRec) : Nat := Word.bits ((r.desc[1]?).getD 0) 20 20 + 1
def WRec.nz (r : WRec) : Nat := Word.bits ((r.desc[1]?).getD 0) 40 20 + 1
/-- N (R288). -/
def WRec.total (r : WRec) : Nat := r.nx * r.ny * r.nz
/-- The minimum chunk: 0 means 1 (R495). -/
def WRec.minChunk (r : WRec) : Nat := max 1 (Word.bits ((r.desc[3]?).getD 0) 48 16)
/-- The body entry (R495). -/
def WRec.entry (r : WRec) : Word := BitVec.ofNat 64 (((r.desc[0]?).getD 0).toNat / 4 * 4)
/-- P, the number of cores in the set (R290). -/
def WRec.cores_ (r : WRec) : Nat := (membersOf r.cores).length

/-- The grant of a claim (R290, R292): the returned chunk whole, or the next indices from the counter. -/
def WRec.claim (r : WRec) : Grant × WRec :=
  if r.done || r.can ≠ 0 then ([], r)
  else if r.ret ≠ [] then (r.ret, { r with ret := [] })
  else
    let rem := r.total - r.next
    if rem = 0 then ([], r)
    else
      let n := min rem (max r.minChunk ((rem + 2 * r.cores_ - 1) / (2 * r.cores_)))
      ([(r.next, n)], { r with next := r.next + n })

/-- Whether a launch still has indices to give. -/
def WRec.hasMore (r : WRec) : Bool := !r.done && r.can == 0 && (r.ret != [] || decide (r.next < r.total))

/-! ## Completion (R490) -/

/-- A record becomes complete: its parent's count falls by one and takes its error, and may become complete in turn. -/
def State.completeRec (s : State) : Nat → Level → Nat → State
  | 0, _, _ => s
  | n + 1, l, id =>
    match s.wrec l id with
    | none => s
    | some r =>
      let s := s.setRec l id { r with done := true, doneAt := s.cycle }
      match l.up with
      | none => s
      | some u =>
        if r.nop then s
        else match s.wrec u r.parent with
          | none => s
          | some q =>
            let q1 := { q with count := q.count - 1, err := q.err || r.err }
            let s := s.setRec u r.parent q1
            if q1.count = 0 && !q1.hold && !q1.done then State.completeRec s n u r.parent else s

/-- A record's count falls; at 0 without a hold it becomes complete. -/
def State.lowerCount (s : State) (l : Level) (id n : Nat) (err : Bool) : State :=
  match s.wrec l id with
  | none => s
  | some r =>
    let r1 := { r with count := r.count - n, err := r.err || err }
    let s := s.setRec l id r1
    if n ≠ 0 && r1.count = 0 && !r1.hold && !r1.done then s.completeRec 4 l id else s

/-! ## Offers (R291, R493) -/

/-- Whether the primary of a core may be given a launch (R15): neither a designated supervisor's nor the station's. -/
def takesLaunches (c : CoreId) : Bool := isCore c.val && !isSupervisor c && c != stationCore

/-- Whether a core holds no tile task and awaits none. -/
def State.coreFree (s : State) (c : CoreId) : Bool :=
  let x := s.core c
  takesLaunches c && x.prim.task.isNone && x.prim.mode == .idle && x.offer.isNone && x.move.isNone

/-- Of two launches, the one that a core is given first: higher priority, then smaller age, then the one allocated first (R292, R493). -/
def launchBefore (p q : Nat × WRec) : Bool :=
  decide (q.2.pri < p.2.pri) ||
    (p.2.pri == q.2.pri && (decide (p.2.age < q.2.age) || (p.2.age == q.2.age && decide (p.2.order < q.2.order))))

/-- The best of a list of launches. -/
def bestLaunch : List (Nat × WRec) → Option (Nat × WRec)
  | [] => none
  | p :: l =>
    match bestLaunch l with
    | none => some p
    | some q => if launchBefore q p then some q else some p

/-- The launches that wait for a core: those with indices to give whose set names it, and those whose captured context it
holds (R292, R383, R493). -/
def State.waitingFor (s : State) (c : CoreId) : List (Nat × WRec) :=
  s.term.launches.filter fun p =>
    !p.2.done && ((p.2.hasMore && p.2.cores.getLsbD c.val) || ((s.core c).captured (some p.1)).isSome)

/-- Give a free core its launch (R493): the Roundhouse sends an offer, or the captured context of that launch resumes
(R383, R384). -/
def State.offerTo (s : State) (c : CoreId) : State :=
  if !s.coreFree c then s
  else match bestLaunch (s.waitingFor c) with
    | none => s
    | some (n, _) =>
      match (s.core c).captured (some n) with
      | some _ =>
        (s.modPrim c fun p => { p with mode := .capturing }).after 160 1 .contextResume { EvArg.ofCore c with n := n, k := 1 }
      | none =>
        (s.modCore c fun x => { x with offer := some n }).after (s.toRoundhouse c (dieOfRec .launch n)) 2 .launchOffer
          { EvArg.ofCore c with n := n }

/-- Whether a launch's priority is higher than that of a core's running task (R292). -/
def State.outranked (s : State) (c : CoreId) (q : WRec) : Bool :=
  match (s.core c).prim.task with
  | none => false
  | some t => match s.wrec .launch t.launch with | some r => decide (r.pri < q.pri) | none => true

/-- Whether a core's context can be captured: no other is captured there, or that one's launch names a save slot (R381, R493). -/
def State.hasRoom (s : State) (c : CoreId) : Bool :=
  match (s.core c).cap with
  | none => true
  | some k => match k.launch with
    | some n => (match s.wrec .launch n with | some r => r.save != 0 | none => true)
    | none => false

/-- Whether a core's running task must give it up to a launch at once (R292, R493). -/
def State.givesWay (s : State) (c : CoreId) (q : WRec) : Bool := s.outranked c q && s.hasRoom c

/-- Tell every core of a launch's set of it (R292, R493): free cores get offers, and with immediate capture the cores that
run a task of lower priority are asked for at their next boundary. -/
def State.announce (s : State) (n : Nat) : State :=
  match s.wrec .launch n with
  | none => s
  | some r =>
    (membersOf r.cores).foldl (fun s i =>
      let c := coreOfNat i
      if s.coreFree c then s.offerTo c
      else if r.capNow && r.hasMore && s.givesWay c r then
        s.after (s.toRoundhouse c (dieOfRec .launch n)) 2 .launchOffer { EvArg.ofCore c with n := n, k := 1 }
      else s) s

/-- A claim travels to the launch's Roundhouse (R291). -/
def State.sendClaim (s : State) (c : CoreId) (n delay : Nat) : State :=
  (s.modPrim c fun p => { p with task := p.task.map fun t => { t with claiming := true } }).sendBy c 1
    (delay + s.toRoundhouse c (dieOfRec .launch n)) 2 .nestClaim { EvArg.ofCore c with n := n }

/-- An offer arrives: a free core joins and claims in the next cycle (R291); with `k` = 1 the core is asked for (R292). -/
def execLaunchOffer (s : State) : Out :=
  let c := s.evt.core
  let n := s.evt.n
  match s.putOff c false .launchOffer with
  | some t => .next t
  | none =>
  if s.evt.k = 1 then
    match s.wrec .launch n with
    | some r =>
      if r.hasMore && s.givesWay c r then .next (s.modCore c fun x => { x with capReq := some (0x12, n) }) else .next s
    | none => .next s
  else
    let s := s.modCore c fun x => { x with offer := none }
    match s.wrec .launch n with
    | some r =>
      if s.coreFree c && (s.prim c).mode == .idle then
        let s := s.modPrim c fun p =>
          { p with task := some { launch := n, entry := r.entry, chunk := [], body := false, claiming := false, dry := false, begun := false } }
        .next (s.sendClaim c n 1)
      else .next s
    | none => .next (s.offerTo c)

/-- A claim is served (R290, R292, R494). -/
def execNestClaim (s : State) : Out :=
  let c := s.evt.core
  let n := s.evt.n
  let r := match s.wrec .launch n with
    | some r =>
      let g := r.claim
      let q := if g.1 = [] ∨ g.2.running.contains c then g.2 else { g.2 with running := g.2.running ++ [c] }
      (g.1, s.setRec .launch n q)
    | none => ([], s)
  .next (r.2.after (s.toRoundhouse c (dieOfRec .launch n)) 2 .claimResponse { EvArg.ofCore c with n := n, load := .grant r.1 })

/-- A core leaves its tile task and is free (R289, R291); a supervisor looks at its ring (R369). -/
def State.leaveTask (s : State) (c : CoreId) : State :=
  let s := match (s.prim c).task with
    | some t =>
      match s.wrec .launch t.launch with
      | some r => s.setRec .launch t.launch { r with running := r.running.filter fun d => d != c }
      | none => s
    | none => s
  let s := (s.stopTicks c).dropItems fun i => i.what == .bodyEntry && i.arg.core == c
  let s := s.modPrim c fun p => { p with task := none, mode := .idle, owesDrain := false }
  let s := (s.modCore c fun x => { x with capReq := none }).offerTo c
  if isSupervisor c then s.after 0 2 .ringRecordWrite (EvArg.ofCore c) else s

/-- Coordinates that a core has not started return to their launch (R292), or leave the count of one that is cancelled (R494). -/
def State.giveBack (s : State) (n : Nat) (g : Grant) : State :=
  match s.wrec .launch n with
  | some r =>
    if g = [] then s
    else if r.can ≠ 0 then s.lowerCount .launch n (grantLen g) false
    else s.setRec .launch n { r with ret := grantMerge r.ret g }
  | none => s

/-- A claim's answer finds its task captured (R292): its coordinates return, and the task claims again when it has resumed. -/
def State.lateGrant (s : State) (c : CoreId) (n : Nat) (g : Grant) : State :=
  (s.modCaptured c (some n) fun k => { k with keep := { k.keep with task := k.keep.task.map fun t =>
    { t with claiming := false, dry := t.dry || g.isEmpty } } }).giveBack n g

/-- A claim's answer returns (R291): the fetcher holds the chunk, or there is none. A body entry that waits for it is made in
the next cycle, and a task that only waited for it ends. A grant to a context captured meanwhile returns to its launch (R292). -/
def execClaimResponse (s : State) : Out :=
  let c := s.evt.core
  let n := s.evt.n
  match s.evt.load with
  | .grant g =>
    match (s.prim c).task with
    | some t =>
      if t.launch = n && t.claiming then
        let s := s.modPrim c fun p =>
          { p with task := some { t with claiming := false, dry := t.dry || g.isEmpty, chunk := t.chunk ++ g } }
        let waits := (s.prim c).mode == .entering || (s.prim c).mode == .idle
        let due := s.agenda.any fun i => i.what == .bodyEntry && i.arg.core == c
        .next (if !waits then s
          else if (s.prim c).noneWaits then s.after 0 3 .bodyEntry (EvArg.ofCore c)
          else if due then s else s.after 1 1 .bodyEntry (EvArg.ofCore c))
      else .next (s.lateGrant c n g)
    | none => .next (s.lateGrant c n g)
  | _ => .next s

/-- The primary's registers at a task's first body entry (R40, R207, R289): batches of the task before are nobody's. `FPSTAT`, `FPXEN`,
`QLIMIT` and `FELIMIT` keep what an earlier task left in them, since R40 resets the register files alone (log 104). -/
def State.taskStart (s : State) (c : CoreId) : State :=
  let s := s.modPrim c fun p =>
    { p with regs := Regs.reset, flight := [], br := Pending.clear, commits := 0, given := 0, spacing := 0, marks := [],
             replay := 0, omitAt := none, endOwed := false, owesDrain := false }
  s.modCore c fun x => { x with qmx := x.qmx.map fun e => { e with batch := none } }

/-- The coordinate of a linear index (R288). -/
def WRec.coord (r : WRec) (i : Nat) : Nat × Nat × Nat := (i % r.nx, i / r.nx % r.ny, i / (r.nx * r.ny))

/-- A task's unstarted coordinates return to its launch (R292), and it claims again when it goes on. -/
def State.returnChunk (s : State) (c : CoreId) : State :=
  match (s.prim c).task with
  | none => s
  | some t =>
    (s.modPrim c fun p => { p with task := some { t with chunk := [], dry := t.dry && t.chunk.isEmpty } }).giveBack t.launch t.chunk

/-- Whether a launch of higher priority waits for a core whose task is at a body boundary (R292). -/
def State.wanted (s : State) (c : CoreId) : Bool :=
  (s.term.launches.any fun p => p.2.hasMore && p.2.cores.getLsbD c.val && s.outranked c p.2)

/-- The fetcher at a body entry (R110, R289 to R292): it gives the core up, by a capture or, where the place of a captured context is taken and
cannot be freed, by leaving the task as if it had found no coordinate (R493; log 123), unpacks the next coordinate and starts the body,
waits for a claim, or ends the task once every result has landed. -/
def execBodyEntry (s : State) : Out :=
  let c := s.evt.core
  let p := s.prim c
  if !(p.mode == .entering || p.mode == .idle) then .next s
  else match p.task with
  | none => .next (if p.mode == .idle then s
      else if p.flight.isEmpty then s.leaveTask c else s.after 1 3 .bodyEntry (EvArg.ofCore c))
  | some t =>
    if t.begun && (t.chunk != [] || !t.dry) && s.wanted c then
      if s.hasRoom c then .next (((s.returnChunk c).modPrim c fun p => { p with pc := t.entry }).beginCapture c 0x12)
      else if p.flight.isEmpty then .next ((s.returnChunk c).leaveTask c)
      else .next (s.after 1 3 .bodyEntry (EvArg.ofCore c))
    else match grantPop t.chunk, s.wrec .launch t.launch with
    | some (i, rest), some r =>
      let s := if t.begun then s else s.taskStart c
      let s := s.modCore c fun x => if t.begun then x else { x with code := r.code }
      let s := s.modPrim c fun p =>
        let k := r.coord i
        { p with regs := { p.regs with ix := BitVec.ofNat 32 k.1, iy := BitVec.ofNat 32 k.2.1, iz := BitVec.ofNat 32 k.2.2 }
                 pc := t.entry, entryFrom := some (BitVec.allOnes 64), mode := .running
                 task := some { t with chunk := rest, body := true, begun := true } }
      let s := if rest.isEmpty && !t.dry && !t.claiming then s.sendClaim c t.launch 0 else s
      .next (s.attempt c)
    | _, _ =>
      if t.claiming then .next s
      else if !t.dry then .next (s.sendClaim c t.launch 0)
      else if p.flight.isEmpty then .next (s.leaveTask c)
      else .next (s.after 1 3 .bodyEntry (EvArg.ofCore c))

/-- A unit's end reaches its Roundhouse (R490); `k` = 1 marks an end by `SVRES.end` (R494). -/
def execUnitEndReport (s : State) : Out := .next (s.lowerCount .launch s.evt.n 1 (s.evt.k == 1))

/-! ## Launches (R245, R488, R495) -/

/-- Whether a word has no bit outside a mask. -/
def onlyBits (w mask : Word) : Bool := w &&& ~~~mask == 0

/-- The identities in service (R14, R510). -/
def State.served (s : State) : BitVec 1024 :=
  (List.finRange 4).foldl (fun m d => (List.finRange 196).foldl (fun m i =>
    let e := s.dies[d.val].lpt[i.val]
    if e.ins then m ||| (1#1024 <<< e.lid.toNat) else m) m) 0

/-- The checks of a descriptor (R495), and its core set. -/
def State.descOk (s : State) (ws : List Word) (maskOk : Bool) (mask : Nat) : Option (BitVec 1024) :=
  let w := fun i => (ws[i]?).getD 0
  let msk := (w 2).getLsbD 63
  let first := Word.bits (w 2) 16 10
  let last := Word.bits (w 2) 32 10
  let save := (w 4).toNat
  match descCores ws maskOk mask with
  | none => none
  | some set =>
    let ok := onlyBits (w 0) 0xFFFFFFFFFFFFFFFC && onlyBits (w 1) 0x0FFFFFFFFFFFFFFF && onlyBits (w 2) 0x800003FF03FF0000 &&
      onlyBits (w 3) 0xFFFF03FF00008023 && (w 6 == 0) &&
      (if msk then first == 0 && last == 0 && onlyBits (w 5) 0x1FFFFF else decide (first ≤ last) && w 5 == 0) &&
      (save == 0 || (save % 4096 == 0 && (domOf save == 2 || domOf save == 3) && addrOk save)) &&
      set != 0 && set &&& ~~~s.served == 0 && (membersOf set).all (fun i => takesLaunches (coreOfNat i)) &&
      ((w 3).getLsbD 15 || (match s.wrec .phase (Word.bits (w 3) 32 10) with | some q => !q.done | none => false))
    if ok then some set else none

/-- The lowest free launch record of a die (R488). -/
def State.freeLaunch (s : State) (d : Fin 4) : Option Nat :=
  (List.range 1024).findSome? fun i => if (s.wrec .launch (1024 * d.val + i)).isNone then some (1024 * d.val + i) else none

/-- Allocate a launch record: its parent's count rises in the same step (R490), and its cores are told. -/
def State.allocLaunch (s : State) (id : Nat) (ws : List Word) (set : BitVec 1024) (code : List IWord) : State :=
  let w3 := (ws[3]?).getD 0
  let nop := w3.getLsbD 15
  let parent := Word.bits w3 32 10
  let r0 : WRec :=
    { done := false, doneAt := 0, hold := false, err := false, can := 0, nop := nop, parent := parent, pri := w3.extractLsb' 0 2,
      capNow := w3.getLsbD 5, count := 0, age := s.tsc
      order := s.term.launches.foldl (fun n p => max n (p.2.order + 1)) 0, next := 0, ret := [], desc := ws.take 4, code := code,
      save := (ws[4]?).getD 0, cores := set, running := [], acks := [] }
  let s := s.setRec .launch id { r0 with count := r0.total }
  let s := if nop then s else match s.wrec .phase parent with
    | some q => s.setRec .phase parent { q with count := q.count + 1 }
    | none => s
  s.announce id

/-- A Roundhouse serves a `LAUNCH` (R245, R495): the answer carries the id, or all ones. -/
def execLaunchAllocation (s : State) : Out :=
  let c := s.evt.core
  match (s.core c).pend s.evt.id with
  | none => .next s
  | some p =>
    let maskOk := (p.ws[8]?).getD 0 != 0
    let mask := bytesToNat ((p.ws.drop 9).flatMap fun w => natToBytes 8 w.toNat)
    let d := firstDie ((descCores p.ws maskOk mask).getD 0)
    let answer := fun (s : State) (w : Word) (bad : Bool) =>
      (s.modPend c p.id fun q => { q with ws := [w], err := bad, performed := true }).completeIn c p.id (s.toRoundhouse c d)
    match s.descOk (p.ws.take 8) maskOk mask, s.freeLaunch d with
    | some set, some id =>
      .next (answer (s.allocLaunch id (p.ws.take 8) set ((s.core c).codeOf p.thr)) (BitVec.ofNat 64 id) false)
    | _, _ => .next (answer s (BitVec.allOnes 64) true)

/-! ## Cancels (R247, R494) -/

/-- The records of a level that lie below another level's record and are not complete. -/
def State.below (s : State) (l : Level) (id : Nat) : List (Level × Nat) :=
  match l.down with
  | none => []
  | some d => ((s.table d).filter fun p => !p.2.nop && p.2.parent == id && !p.2.done).map fun p => (d, p.1)

/-- A record and everything below it that is not complete. -/
def State.covered (s : State) (l : Level) (id : Nat) : List (Level × Nat) :=
  let a := s.below l id
  let b := a.flatMap fun r => s.below r.1 r.2
  let d := b.flatMap fun r => s.below r.1 r.2
  (l, id) :: (a ++ b ++ d)

/-- Cancel one covered record: a launch gives its undispatched indices up (R494). -/
def State.cancelOne (s : State) (hard : Bool) (ref : CancelRef) (l : Level) (id : Nat) : State :=
  match s.wrec l id with
  | none => s
  | some r =>
    if r.done then s
    else
      let first := r.can = 0
      let can : BitVec 2 := if hard || r.can == 2 then 2 else 1
      let s := s.setRec l id { r with can := can }
      if l ≠ .launch then s
      else
        let s := if first then
            (s.setRec l id { r with can := can, ret := [] }).lowerCount l id (r.total - r.next + grantLen r.ret) false
          else s
        if !hard then s
        else
          let s := match s.wrec l id with
            | some q => s.setRec l id { q with acks := q.acks ++ r.running.map fun d => (d, ref) }
            | none => s
          r.running.foldl (fun s d =>
            s.after (s.toRoundhouse d (dieOfRec .launch id)) 2 .hardCancelPreemption
              { EvArg.ofCore d with n := id, load := .cancel ref }) s

/-- Whether some acknowledgement of a cancel is still awaited. -/
def State.awaitsAck (s : State) (ref : CancelRef) : Bool :=
  s.term.launches.any fun p => p.2.acks.any fun a => a.2 == ref

/-- The answer of a cancel travels back to its issuer. -/
def State.answerCancel (s : State) (d : Fin 4) (ref : CancelRef) (bad : Bool) : State :=
  (s.modPend ref.core ref.id fun q => { q with err := bad, performed := true }).completeIn ref.core ref.id (s.toRoundhouse ref.core d)

/-- A Roundhouse applies a cancel (R494). -/
def execCancelApply (s : State) : Out :=
  let c := s.evt.core
  match (s.core c).pend s.evt.id with
  | none => .next s
  | some p =>
    let l := levelOf (Word.bits (p.x12.setWidth 64) 0 2)
    let id := p.a.toNat
    let ref : CancelRef := ⟨c, p.id⟩
    match s.wrec l id with
    | none => .next (s.answerCancel (dieOfRec l id) ref true)
    | some r =>
      if r.done then .next (s.answerCancel (dieOfRec l id) ref false)
      else
        let hard := p.x12.getLsbD 2
        let s := (s.covered l id).foldl (fun s q => s.cancelOne hard ref q.1 q.2) s
        .next (if s.awaitsAck ref then s else s.answerCancel (dieOfRec l id) ref false)

/-- The unit of operations whose own is gone: no launch has this number. -/
def noUnit : Option Nat := some (2 ^ 20)

/-- The operations of the primary that go on when another context comes back to it: their statuses are nobody's (R382, R383). -/
def Core.orphanPends (x : Core) : Core :=
  { x.mapQueues (fun l => l.map fun p => if p.thr == .prim && !p.prot then { p with prot := true, unit := noUnit } else p) with
    prim := { x.prim with tags := x.prim.tags.map fun t => { t with count := 0 } } }

/-- The `XCOLL`s of a discarded unit that have not read their source complete ERROR and leave `Q.CO` (R407). -/
def State.dropColl (s : State) (c : CoreId) (mine : Pend → Bool) : State :=
  ((s.core c).qco.filter fun p => p.kind == .xcoll && mine p && !p.performed).foldl (fun s p => s.finishEntry c p 2) s

/-- The unit that runs on a primary is discarded (R286, R494): how many units and claimed coordinates went, and the state with
the core free of its task. Its operations go on, and their tags complete (R335). -/
def State.discardUnit (s : State) (c : CoreId) : Nat × State :=
  match (s.prim c).task with
  | none => (0, s)
  | some t =>
    let n := (if t.body then 1 else 0) + grantLen t.chunk
    let s := (s.dropIssue c).dropColl c fun p => p.thr == .prim && !p.prot
    let s := s.modPrim c fun p =>
      { p with flight := [], br := Pending.clear, hold := none, replay := 0, omitAt := none, entryFrom := none, owesDrain := false,
               endOwed := false, marks := [], fault := none, task := some { t with chunk := [], body := false, claiming := false } }
    (n, s.leaveTask c)

/-- The captured contexts of a launch on a core are discarded (R383, R494): how many units and claimed coordinates they held. Their `XCOLL`s that have not
read their source leave `Q.CO` (R407). Without a captured context the L2 way of the extensions caches again (R381). -/
def State.discardCaptured (s : State) (c : CoreId) (n : Nat) : Nat × State :=
  let x := s.core c
  let mine := (x.cap.toList ++ x.saved).filter fun k => k.launch == some n
  let had := x.cap.any fun k => k.launch == some n
  let s := s.dropColl c fun p => p.prot && p.unit == some n
  let s := s.modCore c fun x =>
    let x : Core := { x.mapQueues (fun l => l.map fun p => if p.prot && p.unit == some n then { p with unit := noUnit } else p) with
      cap := x.cap.filter (fun k => k.launch != some n), saved := x.saved.filter fun k => k.launch != some n }
    if had then x.returnWay 15 else x
  ((mine.map fun k => match k.keep.task with | some t => (if t.body then 1 else 0) + grantLen t.chunk | none => 0).sum, s)

/-- Whether a core must put a pre-emption off: a checkpoint has frozen it (R263), or its context is being captured. -/
def State.deferPreempt (s : State) (c : CoreId) : Bool :=
  let x := s.core c
  x.still || (match x.move with
    | some m => m.held
    | none => x.prim.mode == .capturing && x.prim.task.isSome)

/-- A hard cancel reaches a core (R365, R494): matrix entries that have not begun their array phase leave, the one in its array
phase completes, the unit is discarded, and the acknowledgement travels back. -/
def execHardCancelPreemption (s : State) : Out :=
  let c := s.evt.core
  let n := s.evt.n
  let mine := (s.prim c).task.any fun t => t.launch == n
  let wait := fun (s : State) => s.after 1 2 .hardCancelPreemption s.evt
  let ack := fun (s : State) (k : Nat) =>
    s.after (s.toRoundhouse c (dieOfRec .launch n)) 2 .hardCancelAck { EvArg.ofCore c with n := n, id := k, load := s.evt.load }
  if (s.tile (s.tileOf c)).supply != .on then .next (s.atEdge (s.tileOf c) .hardCancelPreemption)
  else if mine && s.deferPreempt c then .next (wait s)
  else if mine then
    let s := (s.dropIssue c).modCore c fun x =>
      { x with qmx := x.qmx.filter fun e => decide (e.start ≤ s.clock c), prim := { x.prim with mode := .entering }, ckpt := none }
    if !(s.core c).qmx.isEmpty then .next (wait s)
    else
      let r := s.discardUnit c
      let q := r.2.discardCaptured c n
      .next (ack q.2 (r.1 + q.1))
  else
    let q := s.discardCaptured c n
    .next (ack q.2 q.1)

/-- An acknowledgement reaches the Roundhouse (R494): the discarded units leave the count, and the last one completes the
cancel. -/
def execHardCancelAck (s : State) : Out :=
  let c := s.evt.core
  let n := s.evt.n
  match s.evt.load with
  | .cancel ref =>
    let s := match s.wrec .launch n with
      | some r => (s.setRec .launch n { r with acks := r.acks.erase (c, ref), running := r.running.filter fun d => d != c }).lowerCount
          .launch n s.evt.id false
      | none => s
    .next (if s.awaitsAck ref then s else s.answerCancel (dieOfRec .launch n) ref false)
  | _ => .next (s.lowerCount .launch n s.evt.id false)

/-! ## Writes by system software (R488, R490, R492) -/

/-- Free a record and every complete record below it (R492). -/
def State.freeBelow (s : State) : Nat → Level → Nat → State
  | 0, l, id => s.freeRec l id
  | n + 1, l, id =>
    let s1 := match l.down with
      | none => s
      | some d => ((s.table d).filter fun (p : Nat × WRec) => !p.2.nop && p.2.parent == id && p.2.done).foldl (fun s (p : Nat × WRec) => State.freeBelow s n d p.1) s
    s1.freeRec l id

/-- Whether a parent can take a child: allocated and not complete, or none wanted (R492). -/
def State.parentOk (s : State) (l : Level) (nop : Bool) (parent : Nat) : Bool :=
  nop || (match l.up with
    | none => true
    | some u => match s.wrec u parent with | some q => !q.done | none => false)

/-- A change of a parent's count by an allocation (R490). -/
def State.raiseCount (s : State) (l : Level) (nop : Bool) (parent : Nat) : State :=
  match l.up with
  | some u => if nop then s else match s.wrec u parent with
      | some q => s.setRec u parent { q with count := q.count + 1 }
      | none => s
  | none => s

/-- A write of doubleword +0x00 of a record: allocate, hold or close, free (R489, R490, R492); none for ERROR. A launch record is
allocated by `LAUNCH` or the loader alone, for its descriptor is not in this doubleword. -/
def State.writeRec (s : State) (l : Level) (id : Nat) (w : Word) : Option State :=
  let nop := l == .job || w.getLsbD 57
  let parent := Word.bits w 32 10
  if l.ids ≤ id then none
  else match s.wrec l id with
  | none =>
    if !w.getLsbD 63 then some s
    else if l == .launch || !s.parentOk l nop parent then none
    else
      let r : WRec :=
        { done := false, doneAt := 0, hold := w.getLsbD 61, err := false, can := 0, nop := nop, parent := parent, pri := 0, capNow := false,
          count := 0, age := s.tsc, order := 0, next := 0, ret := [], desc := [], code := [], save := 0, cores := 0, running := [], acks := [] }
      some ((s.setRec l id r).raiseCount l nop parent)
  | some r =>
    if !w.getLsbD 63 then (if r.done then some (s.freeBelow 3 l id) else none)
    else
      let moved := !r.done && (r.nop != nop || r.parent != parent)
      if moved && !s.parentOk l nop parent then none
      else
        let s1 := s.setRec l id { r with hold := w.getLsbD 61, nop := nop, parent := parent }
        let s2 := if !moved then s1
          else
            let s2 := s1.raiseCount l nop parent
            match l.up with
            | some u => if r.nop then s2 else s2.lowerCount u r.parent 1 false
            | none => s2
        some (if !w.getLsbD 61 && r.count = 0 && !r.done then s2.completeRec 4 l id else s2)

/-- A write of a record (R488, R492): its doubleword +0x00; the other fields are read-only. -/
def execWorkRecordWrite (s : State) : Out :=
  match s.evt.load with
  | .level l =>
    if s.evt.n ≠ 0 then .next (s.answerHost s.evt.port 0)
    else match s.writeRec l s.evt.id s.evt.dw with
      | some t => .next (t.answerHost s.evt.port 0)
      | none => .next (s.answerHost s.evt.port 1)
  | _ => .next s

end Sys2Proof.Machine
end

