-- ==== Sys2Proof/Machine/EngineRun.lean ====
section
/-! DEFINITION. Copies, gathers and scatters as they run (R215 to R224, R398), remote atomics, counters and full-empty accesses
at their homes (R235 to R238, R336, R337), fault notices and wakes (R332 to R335). -/

namespace Sys2Proof.Machine

open Sys2Proof

/-! ## Local bytes (R220) -/

/-- Whether an operation may read old bytes in place of what overwrote them: one issued before, and not ordered behind an engine operation
that wrote them (R346, R347). -/
def OldBytes.mayShow (o : OldBytes) (p : Pend) : Bool :=
  (decide (p.id < o.at_) && !o.behind.contains p.id) || (o.thr == some p.thr && (match o.fenced with | none => true | some f => decide (p.id < f)))

/-- A byte as an engine reads it: as it stands, or any old byte that the operation may still find (log 4). -/
def State.engineByte (s : State) (olds : List OldBytes) (key : Nat) : Byte × State :=
  olds.foldl (fun r o =>
    if o.key ≤ key ∧ key < o.key + o.old.length then
      (if Config.freeBool r.2.free then (o.old[key - o.key]?).getD 0 else r.1, r.2.tickFree)
    else r) (Memory.get s.mem key, s)

/-- Local bytes as an engine reads them, under the mapping resolved at issue. -/
def State.engineRead (s : State) (c : CoreId) (p : Pend) (a len : Nat) : List Byte × State :=
  let olds := (s.core c).oldBytes.filter fun o => o.mayShow p
  if olds.isEmpty then (s.readProg c p.sbt a len, s)
  else
    let r := (List.range len).foldl (fun (r : List Byte × State) i =>
      let b := r.2.engineByte olds (progKey p.sbt c (a + i))
      (b.1 :: r.1, b.2)) ([], s)
    (r.1.reverse, r.2)

/-- A span cut at multiples of a number: first address and length of each piece. -/
def piecesOf (n a len : Nat) : List (Nat × Nat) :=
  if len = 0 then []
  else (List.range ((a % n + len + n - 1) / n)).map fun i =>
    let lo := if i = 0 then a else (a / n + i) * n
    (lo, min (a + len) ((a / n + i + 1) * n) - lo)

/-- The operations of a core that are ordered behind some entries of its queues, these among them (R217, R231, R346): what stands behind one in
its queue, and behind a marker that waits for one; each round adds those behind what the round before has found. -/
def Core.behindAll (x : Core) : Nat → List Nat → List Nat
  | 0, ids => ids
  | n + 1, ids =>
    let more := allQueues.flatMap fun q => ((x.queue q).dropWhile fun p =>
      !(ids.contains p.id || (p.kind == .marker && p.waits.any ids.contains))).map Pend.id
    if more.length ≤ ids.length then ids else Core.behindAll x n more

/-- The operations that are ordered behind an entry: a queue of 16 places and three others hold at most 48 entries. -/
def Core.behind (x : Core) (id : Nat) : List Nat := x.behindAll 48 [id]

/-- An engine writes local bytes: full-empty bits become full, and an incomplete operation that is not `behind` the writer may still read
what they were (R148, R220). -/
def State.engineWrite (s : State) (c : CoreId) (behind : List Nat) (sbt : Vector Word 64) (a : Nat) (bs : List Byte) : State :=
  let x := s.core c
  let s := if (x.qcp ++ x.qga ++ x.qco ++ x.qkv).isEmpty then s
    else (piecesOf 32768 a bs.length).foldl (fun s q => s.keepOld c none behind (progKey sbt c q.1) q.2) s
  (s.writeProg c sbt true a bs).mendProg c sbt a bs.length

/-- The same with the bank ports that the access takes from this cycle on (R140). -/
def State.engineWriteNow (s : State) (c : CoreId) (behind : List Nat) (sbt : Vector Word 64) (a : Nat) (bs : List Byte) : State :=
  (s.engineWrite c behind sbt a bs).useSpans c sbt s.cycle [(a, bs.length)]

/-! ## The moves of an operation (R222 to R224) -/

/-- The size of a gathered element (R224). -/
def Pend.size (p : Pend) : Nat := 2 ^ (p.x12.toNat % 8)

/-- The moves of a copy or, from its indices, of a gather or a scatter. -/
def Pend.movesOf (p : Pend) (idx : List Nat) : List Move :=
  match p.kind with
  | .xcp => if p.c = 0 then [] else [⟨p.b.toNat, p.a.toNat, p.c.toNat, true⟩]
  | .xcp2 => (rowsOf p.a p.b p.c).map fun r => ⟨r.1, r.2.1, r.2.2, true⟩
  | .xga => idx.zipIdx.map fun q => ⟨p.b.toNat + q.1 * p.size, p.a.toNat + q.2 * p.size, p.size, true⟩
  | .xsc => idx.zipIdx.map fun q => ⟨p.b.toNat + q.2 * p.size, p.a.toNat + q.1 * p.size, p.size, true⟩
  | _ => p.moves

/-- Whether an address is local to its core. -/
def isLocal (a : Nat) : Bool := domOf a == 0 && decide (a < 2 ^ 56)

/-- The home of a global address that an operation may name. -/
def State.copyHome (s : State) (c : CoreId) (a : Nat) : Option Home :=
  if addrIn copyDoms (BitVec.ofNat 64 a) && decide (a < 2 ^ 64) then s.homeOf c a else none

/-- Cycles to a home of a copy's leg, one way (R397): none to the local scratchpad. -/
def State.wayOf (s : State) (c : CoreId) (a : Nat) : Nat :=
  if isLocal a then 0 else match s.copyHome c a with | some h => s.wayTo c a h | none => 0
/-- The read term of an address's home. -/
def State.termOf (s : State) (c : CoreId) (a : Nat) : Nat :=
  if isLocal a then 0 else match s.copyHome c a with | some h => readTerm h | none => 0
/-- Tr and Tw of R398. -/
def State.readCost (s : State) (c : CoreId) (a : Nat) : Nat := 2 * s.wayOf c a + s.termOf c a
def State.writeCost (s : State) (c : CoreId) (a : Nat) : Nat :=
  if isLocal a then 5
  else
    let w := s.wayOf c a
    if w = 0 && domOf a == 8 then 2 else 2 * w

/-- The addresses at which a move's source and destination enter pages: each piece may have a home of its own (R321, R398). -/
def Move.srcs (m : Move) : List Nat := (piecesOf 65536 m.src m.len).map Prod.fst
def Move.dsts (m : Move) : List Nat := (piecesOf 65536 m.dst m.len).map Prod.fst

/-- The largest of a cost over a list. -/
def farthest {α : Type} (f : α → Nat) (l : List α) : Nat := l.foldl (fun m a => max m (f a)) 0

/-- Whether two elements lie at one home, whatever their places there. -/
def sameHome : Option Home → Option Home → Bool
  | some (.scratch c _), some (.scratch d _) => c == d
  | x, y => x == y

/-- The flits of runs of consecutive elements at one home (R398): the length of the run so far, where it goes on, its home. -/
def State.runFlits (s : State) (c : CoreId) : List (Nat × Nat) → Nat → Nat → Option Home → Nat
  | [], run, _, _ => (run + 31) / 32
  | (a, n) :: l, run, nextAt, h =>
    let h1 := s.copyHome c a
    if a = nextAt ∧ sameHome h1 h then State.runFlits s c l (run + n) (a + n) h
    else (run + 31) / 32 + State.runFlits s c l n (a + n) h1

/-- F of R398. -/
def State.flits (s : State) (c : CoreId) (p : Pend) (ms : List Move) : Nat :=
  max 1 (match p.kind with
    | .xsc => s.runFlits c (ms.map fun m => (m.dst, m.len)) 0 0 none
    | .xga | .xkvg => s.runFlits c (ms.map fun m => (m.src, m.len)) 0 0 none
    | _ => ((ms.map Move.len).sum + 31) / 32)

/-! ## Reading the sources -/

/-- What several accesses gave: bytes or, for writes, places; whether all were answered; the faults, each home, kind, level and
address. -/
structure Got where
  ok : Bool
  bytes : List Byte
  places : List (Nat × Nat × Answer)
  faults : List (Nat × Nat × Nat × Nat)

def Got.none_ : Got := ⟨true, [], [], []⟩

/-- How long the walks of some accesses still run (R330), with the buffers brought up to date. -/
def State.walksOfAll (s : State) (c : CoreId) (rd : Bool) (acc : Acc) (l : List (Nat × Nat)) : Nat × State :=
  l.foldl (fun r q =>
    if isLocal q.1 || (r.2.copyHome c q.1).isNone then r
    else
      let a := r.2.answer c q.1 q.2 rd acc
      (max r.1 a.2.2, a.2.1)) (0, s)

/-- Answer one piece of an access at its home (R329, R334): one whose key's wake refused the operation is an error, and with `last` every fault
is. Its walks have ended (R330). A read of a scratchpad takes its ports (R140). -/
def State.askPiece (s : State) (c : CoreId) (p : Pend) (last rd : Bool) (acc : Acc) (g : Got) (q : Nat × Nat) : Got × State :=
  let bad : Got := { g with ok := false, bytes := g.bytes ++ List.replicate q.2 0 }
  if (s.copyHome c q.1).isNone || p.refused.contains (faultKey q.1) then (bad, s)
  else
    let r := s.answer c q.1 q.2 rd { acc with walked := true }
    let s := r.2.1
    match r.1 with
      | .error => (bad, s)
      | .refused h l => (bad, s.sendRefused c.val h l q.1)
      | .fault h k l => if last then (bad, s) else ({ g with faults := g.faults ++ [(h, k, l, q.1)] }, s)
      | w =>
        ({ g with bytes := if rd then g.bytes ++ s.readAt w q.2 else g.bytes, places := g.places ++ [(q.1, q.2, w)] },
          if rd then s.useHome w q.2 else s)

/-- Whether a gathered or scattered local element may be accessed (R224, R316). -/
def State.elemOk (s : State) (c : CoreId) (p : Pend) (write : Bool) (a len : Nat) : Bool :=
  (p.kind != .xga && p.kind != .xsc) || (spanProt { (s.core c).ctl with sbt := p.sbt } p.thr write a len).isNone

/-- Read the source of a move. -/
def State.readMove (s : State) (c : CoreId) (p : Pend) (last : Bool) (m : Move) : Got × State :=
  if isLocal m.src then
    if s.elemOk c p false m.src m.len && !s.progSpoilt c p.sbt m.src m.len false then
      let r := s.engineRead c p m.src m.len
      ({ Got.none_ with bytes := r.1 }, r.2)
    else ({ Got.none_ with ok := false, bytes := List.replicate m.len 0 }, s)
  else (piecesOf 65536 m.src m.len).foldl (fun r q => r.2.askPiece c p last true accRead r.1 q) (Got.none_, s)

/-- Read every source: the moves, each with whether it could be read, all bytes in their order, the faults. -/
def State.readMoves (s : State) (c : CoreId) (p : Pend) (last : Bool) : List Move × List Byte × List (Nat × Nat × Nat × Nat) × State :=
  let r := p.moves.foldl (fun (r : List Move × List (List Byte) × List (Nat × Nat × Nat × Nat) × State) m =>
    let g := r.2.2.2.readMove c p last m
    ({ m with ok := g.1.ok } :: r.1, g.1.bytes :: r.2.1, r.2.2.1 ++ g.1.faults, g.2)) ([], [], [], s)
  (r.1.reverse, r.2.1.reverse.flatten, r.2.2)

/-- The accesses of an operation that faulted wait, each for a wake of its key (R332). -/
def State.awaitWakes (s : State) (c : CoreId) (id : Nat) (fs : List (Nat × Nat × Nat × Nat)) : State :=
  fs.foldl (fun s f =>
    if (s.core c).waitWake.any (fun w => w.1 == faultKey f.2.2.2 && w.2 == id) then s
    else s.sendNotice c id f.1 f.2.1 f.2.2.1 f.2.2.2) s

/-! ## The course of a copy (R217, R398) -/

/-- The local spans of a list of legs. -/
def localSpans (l : List (Nat × Nat)) : List (Nat × Nat) := l.filter fun q => isLocal q.1

/-- The pieces of an operation's present accesses, reads and then writes: address and bytes. -/
def Pend.pieces (p : Pend) : List (Nat × Nat) := p.moves.flatMap fun m => if p.writing then piecesOf 65536 m.dst m.len else piecesOf 65536 m.src m.len

/-- Add bytes to the leg of a home port. -/
def addLeg (key : Option PortId × Nat) (q : Nat × Nat) : List ((Option PortId × Nat) × Nat × Nat) → List ((Option PortId × Nat) × Nat × Nat)
  | [] => [(key, q)]
  | l :: ls => if l.1 = key then (key, l.2.1, l.2.2 + q.2) :: ls else l :: addLeg key q ls

/-- The legs of some accesses (R397): one for each home port and way, with its first address and its bytes. The local scratchpad needs
none. -/
def State.legsOf (s : State) (c : CoreId) (l : List (Nat × Nat)) : List (Nat × Nat) :=
  (l.foldl (fun ls q =>
    match s.copyHome c q.1 with
    | some h => if isLocal q.1 then ls else addLeg (s.portOf h, s.wayOf c q.1) q ls
    | none => ls) []).map Prod.snd

/-- One leg sets out (R396, R397): to the own vault it takes that home's read term or, for a write, no time; the flits of a write follow each
other. -/
def State.sendLeg (s : State) (c : CoreId) (p : Pend) (flits : Nat) (q : Nat × Nat) : State :=
  let way := s.wayOf c q.1
  let e : EvArg := { argId c p.id with dw := BitVec.ofNat 64 q.1 }
  let tail := if p.writing then flits - 1 else 0
  if way = 0 then s.after (if p.writing then tail + s.writeCost c q.1 - 1 else s.termOf c q.1) 2 .remoteAccessAtHome { e with k := 1 }
  else s.sendClass (p.thr == .prim) c (if p.writing then max 1 ((q.2 + 31) / 32) else 1) (way + tail) 2 .remoteAccessAtHome e

/-- The accesses of an operation set out: a leg to each home. Where no piece has a home the operation goes on at once. -/
def State.sendLegs (s : State) (c : CoreId) (p : Pend) : State :=
  let ls := s.legsOf c p.pieces
  let s := s.modPend c p.id fun q => { q with legs := ls.length }
  if ls.isEmpty then s.after 0 2 .remoteAccessAtHome { argId c p.id with k := 3 }
  else ls.foldl (fun s q => s.sendLeg c p (s.flits c p p.moves) q) s

/-- The sources have been read, or are local and are read with the writes: the writes set out so that they perform in time. Local ones take
ports up to the cycle of completion (R140; log 100). -/
def State.toWrite (s : State) (c : CoreId) (p : Pend) : State :=
  let s := s.modPend c p.id fun q => { q with writing := true }
  let ds := p.moves.flatMap Move.dsts
  let n := s.flits c p p.moves
  let s := s.useSpans c p.sbt (p.bound - n) (localSpans (p.moves.map fun m => (m.dst, m.len)))
  if ds.all isLocal then s.completeIn c p.id (p.bound - s.cycle)
  else s.after (p.bound - (farthest (s.writeCost c) ds + (n - 1)) - s.cycle) 2 .remoteAccessAtHome { argId c p.id with k := 5 }

/-- The index list of a gather or a scatter, as numbers; none where it holds an uncorrectable error (R514). -/
def State.indexList (s : State) (c : CoreId) (p : Pend) : Option (List Nat) × State :=
  match p.kind with
  | .xga | .xsc =>
    let at_ := p.c.toNat % 2 ^ 21
    let n := 4 * idxCount p.c
    let r := s.engineRead c p at_ n
    let s1 := r.2.useSpans c p.sbt s.cycle [(at_, n)]
    if s.progSpoilt c p.sbt at_ n false then (none, s1)
    else (some ((List.range (idxCount p.c)).map fun i => bytesToNat ((r.1.drop (4 * i)).take 4)), s1)
  | _ => (some [], s)

/-- A copy starts. -/
def State.startCopy (s : State) (c : CoreId) (p : Pend) : State :=
  let r := s.indexList c p
  let s := r.2
  let ms := p.movesOf (r.1.getD [])
  let srcs := ms.flatMap Move.srcs
  let dsts := ms.flatMap Move.dsts
  let t := 1 + farthest (s.readCost c) srcs + farthest (s.writeCost c) dsts + (s.flits c p ms - 1)
  let q := { p with started := true, moves := ms, bound := s.cycle + t, err := p.err || r.1.isNone }
  let s := s.modPend c p.id fun _ => q
  let s := s.useSpans c p.sbt (s.cycle + 1) (localSpans (ms.map fun m => (m.src, m.len)))
  if ms.isEmpty then (s.modPend c p.id fun q => { q with performed := true }).completeIn c p.id 1
  else if srcs.all isLocal then s.toWrite c q
  else s.after 1 2 .remoteAccessAtHome { argId c p.id with k := 5 }

/-- The stage of an operation whose walks have ended; it comes again when they have (R330). -/
def State.pastWalks (s : State) (c : CoreId) (p : Pend) (f : State → State) : State :=
  let w := if s.evt.n = 1 then (0, s) else s.walksOfAll c (!p.writing) (if p.writing then accCopy else accRead) p.pieces
  if w.1 = 0 then f w.2
  else (w.2.modPend c p.id fun q => { q with bound := q.bound + w.1 }).after w.1 2 .remoteAccessAtHome { s.evt with k := 3, n := 1 }

/-- The sources are read at their homes; a fault keeps the operation waiting. -/
def State.readStage (s : State) (c : CoreId) (p : Pend) : State :=
  let r := s.readMoves c p false
  let s := r.2.2.2
  if r.2.2.1 ≠ [] then s.awaitWakes c p.id r.2.2.1
  else
    let q := { p with moves := r.1, data := r.2.1 }
    (s.modPend c p.id fun _ => q).toWrite c q

/-- How long the guards of the destinations hold a write (R202): 0 when it may perform. -/
def State.guardWait (s : State) (c : CoreId) (p : Pend) (ms : List Move) : Nat :=
  ms.foldl (fun m v =>
    if isLocal v.dst then max m (s.guardEnd c p.sbt v.dst v.len)
    else match s.copyHome c v.dst with
      | some (.scratch d q) => max m (s.guardEnd d (s.sbt d) q v.len)
      | _ => m) 0

/-- The bytes of an operation that ended ERROR which have been written all the same, each with its place: any of them may have been
(R222). -/
def State.someOf (s : State) (bs : List (Nat × Byte)) : List (Nat × Byte) × State :=
  let r := bs.foldl (fun (r : List (Nat × Byte) × State) b =>
    (if Config.freeBool r.2.free then b :: r.1 else r.1, r.2.tickFree)) ([], s)
  (r.1.reverse, r.2)

/-- Trace an access of `n` bytes at an answered place, if its page is traced (R338). -/
def State.traceAt (s : State) (w : Answer) (tr : Tracer) (a n : Nat) : State :=
  match w with
  | .at_ key leaf =>
    if leaf.getLsbD 50 && decide (2 * 2 ^ 52 ≤ key) && decide (key < 3 * 2 ^ 52) then
      s.trace (coreOfNat (abits key 42 10)) tr.src tr.thr tr.kind a n (key % 2 ^ 42)
    else s
  | _ => s

/-- Write some bytes of a run, each by its place in it: one trace entry for each line that is written (R338). -/
def State.writeSome (s : State) (w : Answer) (tr : Tracer) (a : Nat) (bs : List (Nat × Byte)) : State :=
  let s := bs.foldl (fun s b => s.writeAt (w.plus b.1).untraced true tr (a + b.1) [b.2]) s
  let key := match w with | .at_ k _ => k | _ => 0
  ((bs.map fun b => (key + b.1) / 128).eraseDups).foldl (fun s l =>
    match bs.filter fun b => (key + b.1) / 128 == l with
    | [] => s
    | b :: more => s.traceAt (w.plus b.1) tr (a + b.1) (min (more.length + 1) (128 - (key + b.1) % 128))) s

/-- A write to host memory of the durable class reaches the durability domain at a time that the host sets (R233, R329). -/
def State.noteDurable (s : State) (c : CoreId) (t : Thr) (w : Answer) : State :=
  match w with
  | .at_ key leaf =>
    if decide (5 * 2 ^ 52 ≤ key) && decide (key < 6 * 2 ^ 52) && Word.bits leaf 53 2 == 1 then
      (s.modCore c fun x => { x with durUntil := (t, s.cycle + Config.freeLatency s.free) :: x.durUntil }).tickFree
    else s
  | _ => s

/-- Write the bytes of one move at its answered places; those in the own scratchpad are ordered before what stands behind the operation
(R346). -/
def State.writeMove (s : State) (c : CoreId) (p : Pend) (whole : Bool) (m : Move) (places : List (Nat × Nat × Answer)) (bs : List Byte) : State :=
  let tr : Tracer := ⟨c.val, thrNum p.thr, 0⟩
  let each := fun (bs : List Byte) => bs.zipIdx.map fun b => (b.2, b.1)
  if isLocal m.dst then
    if whole then s.engineWrite c p.waits p.sbt m.dst bs
    else
      let r := s.someOf (each bs)
      r.1.foldl (fun s b => s.engineWrite c p.waits p.sbt (m.dst + b.1) [b.2]) r.2
  else places.foldl (fun s q =>
    let part := (bs.drop (q.1 - m.dst)).take q.2.1
    let s := s.noteDurable c p.thr q.2.2
    match q.2.2 with
    | .scratch d a sbt =>
      let after_ := if d = c then p.waits else []
      if whole then s.engineWriteNow d after_ sbt a part
      else
        let r := s.someOf (each part)
        r.1.foldl (fun s b => s.engineWriteNow d after_ sbt (a + b.1) [b.2]) r.2
    | w =>
      if whole then s.writeAt w true tr q.1 part
      else
        let r := s.someOf (each part)
        r.2.writeSome w tr q.1 r.1) s

/-- Translate every destination, then write: the moves in their order, so that the last stands (R222 to R224). Answers the
state and whether every write has performed; a fault keeps the operation waiting, unless it is the `last` attempt. Of a move whose
source could not be read no byte is written, which R222 allows (DESIGN CHOICE, log 121). -/
def State.writeStage (s : State) (c : CoreId) (p : Pend) (last : Bool) : State × Bool :=
  let r := if p.data.isEmpty then s.readMoves c p last else (p.moves, p.data, [], s)
  let s0 := r.2.2.2
  let asked := r.1.foldl (fun (a : List (Move × Got) × State) m =>
    if !m.ok then (a.1 ++ [(m, Got.none_)], a.2)
    else if isLocal m.dst then
      (a.1 ++ [({ m with ok := a.2.elemOk c p true m.dst m.len && !a.2.progSpoilt c p.sbt m.dst m.len true }, Got.none_)], a.2)
    else
      let g := (piecesOf 65536 m.dst m.len).foldl (fun (r : Got × State) q => r.2.askPiece c p last false accCopy r.1 q) (Got.none_, a.2)
      (a.1 ++ [({ m with ok := g.1.ok }, g.1)], g.2)) ([], s0)
  let faults := asked.1.flatMap fun q => q.2.faults
  if faults ≠ [] then (asked.2.awaitWakes c p.id faults, false)
  else
    let bad := p.err || asked.1.any fun q => !q.1.ok
    let gather := p.kind == .xga || p.kind == .xsc
    let done := asked.1.foldl (fun (a : List Byte × State) q =>
      let bs := a.1.take q.1.len
      (a.1.drop q.1.len,
        if gather && !q.1.ok then a.2
        else if !gather && bad && !q.1.ok && q.2.places.isEmpty then a.2
        else a.2.writeMove c p (gather || !bad) q.1 q.2.places bs)) (r.2.1, asked.2)
    (done.2.modPend c p.id fun q => { q with performed := true, err := q.err || bad }, true)

/-- The homes of a list of addresses. -/
def State.homesOf (s : State) (c : CoreId) (l : List Nat) : List Home :=
  (l.filterMap fun a => if isLocal a then some (Home.scratch c a) else s.copyHome c a).eraseDups

/-- A leg has done its part at its home, the answer of a read having left it: the operation completes no sooner than this leg's way back and
what follows allow, and goes on when every leg has (R398). -/
def State.legDone (s : State) (c : CoreId) (p : Pend) (a : Nat) : State :=
  let ds := p.moves.flatMap Move.dsts
  let rest := if p.writing then 0 else farthest (s.writeCost c) ds + (s.flits c p p.moves - 1)
  let s := s.modPend c p.id fun q => { q with legs := q.legs - 1, bound := max q.bound (s.cycle + s.wayOf c a + rest) }
  if 1 < p.legs || (s.core c).waitWake.any fun w => w.2 == p.id then s
  else s.after 0 2 .remoteAccessAtHome { argId c p.id with k := 3 }

/-- The writes have performed at every home: the acknowledgements travel back (R398), each in the class of the operation (R396), and the last
ends it. -/
def State.ackLegs (s : State) (c : CoreId) (p : Pend) : State :=
  let ls := s.legsOf c { p with writing := true }.pieces
  let s := s.modPend c p.id fun q => { q with legs := ls.length }
  if ls.isEmpty then s.completeIn c p.id (max 1 (p.bound - s.cycle))
  else ls.foldl (fun s q =>
    let way := s.wayOf c q.1
    s.sendFace (if way = 0 then none else (s.copyHome c q.1).bind s.faceOf) (p.thr == .prim) 1 (way - 1) 2 .remoteAccessAtHome
      { argId c p.id with k := 7, dw := BitVec.ofNat 64 q.1 }) s

/-- The stage of a copy whose legs have all been served: reads first, then writes, which perform there and are acknowledged (log 101). -/
def State.copyStage (s : State) (c : CoreId) (p : Pend) : State :=
  let l := p.moves.flatMap (if p.writing then Move.dsts else Move.srcs)
  match s.putOffAny (s.homesOf c l) p.writing .remoteAccessAtHome with
  | some t => t
  | none =>
    s.pastWalks c p fun s =>
    if !p.writing then s.readStage c p
    else
      let g := s.guardWait c p p.moves
      if g ≠ 0 then s.after g 2 .remoteAccessAtHome { s.evt with k := 3, n := 1 }
      else
        let r := s.writeStage c { p with waits := (s.core c).behind p.id } false
        if r.2 then r.1.ackLegs c p else r.1

/-- A leg of a copy at its home: it waits for the port, and past it the answer of a read waits for the slot of the home's interface
(R396, R397). -/
def State.legAt (s : State) (c : CoreId) (p : Pend) : State :=
  let a := s.evt.dw.toNat
  match s.copyHome c a with
  | none => s.legDone c p a
  | some h =>
    match s.putOffHome h p.writing .remoteAccessAtHome with
    | some t => t
    | none =>
      match (if s.evt.k = 0 then s.portOf h else none) with
      | some port => s.arriveAt port (s.portReq p (if p.writing then 0 else readTerm h) .remoteAccessAtHome)
      | none =>
        if p.writing || s.wayOf c a = 0 then s.legDone c p a
        else s.sendFace (s.faceOf h) (p.thr == .prim) (max 1 ((((s.legsOf c p.pieces).find? fun q => q.1 == a).elim 0 Prod.snd + 31) / 32)) 0 2
          .remoteAccessAtHome { s.evt with k := 6 }

/-- A step of a copy away from its core (R329, R397), by `k`: 0 a leg reaches its home, 1 the port has begun it, 2 a home port begins its next
request (`id` says whose), 3 the stage of all legs, 4 a core's interface looks at its packets of the scavenger class, 5 the legs set out, 6 the answer of a
read leaves its home, 7 an acknowledgement has come, 8 packets of a collective have left. -/
def execRemoteAccessAtHome (s : State) : Out :=
  let c := s.evt.core
  if s.evt.k = 2 then .next (s.beginRequest (portOfStep c s.evt.id))
  else if s.evt.k = 4 then .next (s.slotStep c)
  else if s.evt.k = 8 then .next s
  else match (s.core c).pend s.evt.id with
  | none => .next s
  | some p =>
    match s.evt.k with
    | 7 =>
      let s := s.modPend c p.id fun q => { q with legs := q.legs - 1 }
      .next (if 1 < p.legs then s else s.completeIn c p.id (max 1 (p.bound - s.cycle)))
    | 5 => .next (if p.performed then s else s.sendLegs c p)
    | 3 => .next (if p.performed then s else s.copyStage c p)
    | 6 => .next (if p.performed then s else s.legDone c p s.evt.dw.toNat)
    | _ => .next (if p.performed then s else s.legAt c p)

/-! ## Starts and completions -/

/-- The local bytes that an operation's answer writes, and where; none once a power loss has cut it off from its thread. Of a collective that
an `ABORT` ended, the elements which its moves name (R407). -/
def Pend.results (p : Pend) : List (Nat × List Byte) :=
  let dw := natToBytes 8 ((p.ws[0]?).getD 0).toNat
  if 64 ≤ p.tag then [] else
  match p.kind with
  | .ratom => if p.x12.getLsbD 4 || p.err then [] else [(p.c.toNat, dw)]
  | .rldf => if p.err then [] else [(p.c.toNat, dw)]
  | .launch => [(p.a.toNat + 0x38, dw)]
  | .kvmatch | .kvins => if p.err then [] else [(p.b.toNat, p.data)]
  | .kvapp | .kvdem | .kvprom => if p.err then [] else [(p.c.toNat, p.data)]
  | .xcoll =>
    if p.moves ≠ [] then p.moves.map fun m => (m.dst, (p.data.drop m.src).take m.len)
    else if p.err || p.data.isEmpty then [] else [(p.a.toNat, p.data)]
  | _ => []

/-- Whether a buffer entry of a core, or of the Terminus die, covers part of the page of an `XLINV.page` (R273, R325). -/
def TbEnt.hitBy (t : TbEnt) (home : Option CoreId) (a size : Nat) : Bool :=
  let meets := fun (off : Nat) =>
    let lo := off / 2 ^ size * 2 ^ size
    decide (t.base < lo + 2 ^ size) && decide (lo < t.base + 2 ^ t.shift)
  match domOf a, home with
  | 2, some c => t.dom == 2 && c.val == abits a 42 10 && meets (a % 2 ^ 29)
  | 8, some _ => t.dom == 2 && meets (a % 2 ^ 29)
  | 3, some _ => t.dom == 3 + 16 * abits a 48 4 && meets (a % 2 ^ 48)
  | 4, none => t.dom == 4 && meets (a % 2 ^ 48)
  | 5, none => t.dom == 5 && meets (a % 2 ^ 48)
  | _, _ => false

/-- Every buffer of the package drops the entries that an `XLINV` names (R273). -/
def State.invalidatePages (s : State) (p : Pend) : State :=
  let hit := fun (home : Option CoreId) (t : TbEnt) => p.x12.getLsbD 0 || t.hitBy home p.a.toNat (pageShift (Word.bits p.b 0 2))
  let s := { s with cores := s.cores.mapFinIdx fun i x h => { x with tb := x.tb.filter fun t => !hit (some ⟨i, h⟩) t } }
  s.modTerm fun x => { x with tb := x.tb.filter fun t => !hit none t }

/-- The bytes that an operation still has to write perform; a guard, a frozen core or a tile without supply holds them, and with them the
completion (R202, R263, R407, R473). -/
def State.writeHeld (s : State) (c : CoreId) (p : Pend) (hs : List Home) (g : Nat) (f : State → State) : State :=
  match s.putOffAny hs true .engineOperationComplete with
  | some t => t
  | none =>
    if g ≠ 0 then s.after g 2 .engineOperationComplete s.evt else (f s).afterSeen c p.issued 1 (argId c p.id)

/-- The last cycle before an operation's completion (R217, R220, R235, R238, R245): it writes its local bytes now. -/
def State.lastWrites (s : State) (c : CoreId) (p : Pend) : State :=
  let q := { p with waits := (s.core c).behind p.id }
  match p.kind with
  | .xcp | .xcp2 | .xga | .xsc | .xkvg =>
    if p.performed then s.afterSeen c p.issued 1 (argId c p.id)
    else s.writeHeld c p (s.homesOf c (p.moves.flatMap Move.dsts)) (s.guardWait c p p.moves) fun s => (s.writeStage c q true).1
  | _ =>
    match p.results with
    | [] => s.afterSeen c p.issued 1 (argId c p.id)
    | l => s.writeHeld c p [.scratch c 0] (farthest (fun (r : Nat × List Byte) => s.guardEnd c p.sbt r.1 r.2.length) l) fun s =>
        l.foldl (fun s r => s.engineWriteNow c q.waits p.sbt r.1 r.2) s

/-- An entry completes, its writes having performed: it leaves and its tag completes (R215, R217); an `XCOLL`'s use releases (R405). -/
def State.completeEntry (s : State) (c : CoreId) (p : Pend) : State :=
  match p.kind with
  | .xlinv => (s.invalidatePages p).finishEntry c p 0
  | _ => s.finishEntry c p p.okStatus

/-- An engine or injection-buffer operation completes, `k` = 2 being the cycle before, in which its local bytes are written. With `k` = 1 the
answer of a message's arrival check is in `n` (R237, R239); with 3 a captured context's frame shows its tag `n` (R382); with 4 the value of a window
read has returned (R271). -/
def execEngineOperationComplete (s : State) : Out :=
  let c := s.evt.core
  if s.evt.k = 3 then
    match (s.core c).captured (some s.evt.id) with
    | some k => .next (s.frameTag c k s.evt.n)
    | none => .next s
  else
    match (s.core c).pend s.evt.id with
    | none => .next s
    | some p =>
      match s.evt.k with
      | 1 => .next ((s.finishEntry c p (if s.evt.n = 2 || p.err then 2 else p.okStatus)).releaseMail c)
      | 2 => .next (s.lastWrites c p)
      | 4 => .next (s.finishEntry c p 0)
      | _ => .next (s.completeEntry c p)

/-! ## Operations of the injection buffer at their homes (R399) -/

/-- An operation of the injection buffer has performed, or failed, at its home: the answer waits for the slot of the home's interface and
travels back (R396, R399). -/
def State.answerPend (s : State) (c : CoreId) (p : Pend) (bad : Bool) (ws : List Word) : State :=
  let way := s.wayInj c p.a.toNat
  (s.modPend c p.id fun q => { q with performed := true, err := q.err || bad, ws := ws }).sendFace
    (if way = 0 then none else (s.homeOf c p.a.toNat).bind s.faceOf) (p.thr == .prim) 1 (way - 1) 2 .engineOperationComplete { argId c p.id with k := 2 }

/-- The core to whose interface an operation of the injection buffer goes. -/
def State.homeCore (s : State) (c : CoreId) (p : Pend) : Option CoreId :=
  match s.homeOf c p.a.toNat with
  | some (.scratch d _) | some (.vault d) => some d
  | _ => none

/-- Whether an earlier operation of the same thread has still to arrive at the same home core (R218). -/
def State.outOfTurn (s : State) (c : CoreId) (p : Pend) : Bool :=
  (s.homeCore c p).isSome && (s.core c).inj.any fun q =>
    q.thr == p.thr && decide (q.id < p.id) && !q.started && !q.performed && s.homeCore c q == s.homeCore c p &&
      (q.kind == .ratom || q.kind == .decr || q.kind == .rldf || q.kind == .rstf)

/-- An injected access at its home: out of its turn, put off, waiting for the port or for a walk, answered, refused, or waiting for a
wake. -/
def State.atHome (s : State) (c : CoreId) (p : Pend) (what : Instr) (n : Nat) (acc : Acc) (f : State → Answer → State) : State :=
  let a := p.a.toNat
  match s.homeOf c a with
  | none => s.answerPend c p true []
  | some h =>
    if s.outOfTurn c p then s.after 1 2 what s.evt else
    let s := s.modPend c p.id fun q => { q with started := true }
    match s.putOffHome h true what with
    | some t => t
    | none =>
      match (if s.evt.k = 0 && s.wayTo c a h ≠ 0 then s.portOf h else none) with
      | some port => s.arriveAt port (s.portReq p (readTerm h) what)
      | none =>
        let r := s.answer c a n true (s.accNow acc)
        if s.walkOwed r.2.2 then r.2.1.afterWalk r.2.2 what else
        match r.1 with
        | .error => r.2.1.answerPend c p true []
        | .refused h l => (r.2.1.sendRefused c.val h l a).answerPend c p true []
        | .fault h k l =>
          if p.refused.contains (faultKey a) then r.2.1.answerPend c p true []
          else r.2.1.awaitWakes c p.id [(h, k, l, a)]
        | w => f r.2.1 w

/-- A step at a home is made again after a guard, past the home's port. -/
def State.afterGuard (s : State) (g : Nat) (what : Instr) : State := s.after g 2 what { s.evt with k := 1 }

/-- A remote atomic performs indivisibly (R235): code 10 compares with `s[b]` and stores the value read at the bundle, and writes nothing
where they differ (R155). -/
def execRatomAtHome (s : State) : Out :=
  let c := s.evt.core
  match (s.core c).pend s.evt.id with
  | none => .next s
  | some p =>
    if p.performed then .next s
    else
      let w := eszWidth p.esz
      let n := w / 8
      .next (s.atHome c p .ratomAtHome n accAtomic fun s at_ =>
        if s.guardHold at_ n ≠ 0 then s.afterGuard (s.guardHold at_ n) .ratomAtHome else
        let old := bytesToNat (s.readAt at_ n)
        let y := ((p.ws[0]?).getD 0).toNat % 2 ^ w
        let z := ((p.ws[1]?).getD 0).toNat % 2 ^ w
        let code := p.x12.toNat % 16
        let tr : Tracer := ⟨c.val, thrNum p.thr, 1⟩
        let s := s.useHome at_ n
        let s := if code = 10 && old ≠ y then s.traceAt at_ tr p.a.toNat n
          else s.writeAt at_ false tr p.a.toNat (natToBytes n (if code = 10 then z else atomNew code w old y))
        s.answerPend c p false [BitVec.ofNat 64 old])

/-- The interface that sends the message of a counter (R237, R320), and the core that the message names as its sender. -/
def State.agentOf (s : State) (c : CoreId) (h : Home) : Sender × CoreId :=
  match h with
  | .scratch d _ => (.core d, d)
  | .vault d => (if s.moved d then .vault d else .core d, d)
  | .peer => (.peer, c)
  | _ => (.terminus, c)

/-- A dependence counter is decremented (R237); at zero its message is sent, and its arrival check decides the status. -/
def execDecrAtHome (s : State) : Out :=
  let c := s.evt.core
  match (s.core c).pend s.evt.id with
  | none => .next s
  | some p =>
    if p.performed then .next s
    else .next (s.atHome c p .decrAtHome 32 accDecr fun s at_ =>
      if s.guardHold at_ 8 ≠ 0 then s.afterGuard (s.guardHold at_ 8) .decrAtHome else
      let dw := fun i => BitVec.ofNat 64 (bytesToNat (s.readAt (at_.plus (8 * i)) 8))
      let old := dw 0
      let new := old - (p.ws[0]?).getD 0
      let s := (s.useHome at_ 32).writeAt at_ false ⟨c.val, thrNum p.thr, 2⟩ p.a.toNat (natToBytes 8 new.toNat)
      let target := dw 1
      if 0 < old.toInt ∧ new = 0 then
        if target.getLsbD 28 then s.answerPend c p false []
        else if !isCore (Word.bits target 0 10) then s.answerPend c p true []
        else
          let agent := (s.homeOf c p.a.toNat).elim (.core c, c) (s.agentOf c)
          let m : Msg := { target := target, args := #v[dw 2, dw 3, p.a, 0], stamp := s.tsc, src := BitVec.ofNat 10 agent.2.val,
                           orig := 1, thr := p.thr, ref := p.id * 1024 + c.val }
          (s.modPend c p.id fun q => { q with performed := true }).sendMail c p.id agent.1 m
      else s.answerPend c p (decide (new.toInt < 0) || decide (old.toInt ≤ 0)) [])

/-! ## Remote full-empty accesses and the park table (R238, R336, R337) -/

/-- Perform a full-empty access at its scratchpad: the state and the doubleword read. -/
def State.performFe (s : State) (h : CoreId) (q : Nat) (isStore : Bool) (w : Word) : Word × State :=
  let sbt := s.sbt h
  let old := BitVec.ofNat 64 (s.readProgNat h sbt q 8)
  let s := if isStore then s.writeProg h sbt false q (natToBytes 8 w.toNat) else s
  (old, (s.setFe (progKey sbt h q) isStore).markDirty h (physAddr sbt q))

/-- Whether a full-empty access finds its bit right. -/
def State.feRight (s : State) (h : CoreId) (q : Nat) (isStore : Bool) : Bool := s.isFull (progKey (s.sbt h) h q) != isStore

/-- Look at the park table of a core at the end of each cycle, after the scavengers' accesses, while it holds entries (R153). -/
def State.lookPark (s : State) (h : CoreId) : State := s.after 0 (6 + s.cycle) .parkedAccessService { EvArg.ofCore h with k := 0 }

def State.watchPark (s : State) (h : CoreId) : State :=
  if s.agenda.any fun i => i.what == .parkedAccessService && i.arg.core == h then s else s.lookPark h

/-- An `RLDF` or `RSTF` reaches the owning scratchpad (R238): it performs, parks, is refused by a full table, or fails. The bound
counts in the owning core's cycles from the first arrival (R336), while the tile is gated too (R473). An access of the same kind that is parked on the doubleword goes first
(R350). -/
def execFullEmptyRemoteArrival (s : State) : Out :=
  let c := s.evt.core
  match (s.core c).pend s.evt.id with
  | none => .next s
  | some p =>
    let st := p.kind == .rstf
    if p.performed then .next s
    else
    let s := match p.started || s.outOfTurn c p, s.homeOf c p.a.toNat with
      | false, some (.scratch h _) => s.modPend c p.id fun q => { q with bound := s.clock h + q.bound }
      | _, _ => s
    .next (s.atHome c p .fullEmptyRemoteArrival 8 accAtomic fun s at_ =>
      match at_ with
      | .scratch h q _ =>
        let due := match (s.core c).pend p.id with | some r => r.bound | none => 0
        if due < s.clock h then s.answerPend c p true [] else
        if s.feRight h q st && !((s.core h).park.any fun e => e.off == q && e.isStore == st) then
          if st && s.guardHold at_ 8 ≠ 0 then s.afterGuard (s.guardHold at_ 8) .fullEmptyRemoteArrival else
          let r := (s.useHome at_ 8).performFe h q st ((p.ws[0]?).getD 0)
          r.2.answerPend c p false [r.1]
        else if due ≤ s.clock h then s.answerPend c p true []
        else if 64 ≤ (s.core h).park.length then
          let way := s.wayInj c p.a.toNat
          s.sendFace (if way = 0 then none else (s.homeOf c p.a.toNat).bind s.faceOf) (p.thr == .prim) 1 way 2 .parkRefusalResend { argId c p.id with k := 1 }
        else
          let e : Park := { src := c, id := p.id, isStore := st, off := q, data := (p.ws[0]?).getD 0, due := due, seen := false }
          ((s.modCore h fun x => { x with park := x.park ++ [e] }).after (due - s.clock h) 3 .parkBoundExpiry
            { argId h p.id with n := c.val }).watchPark h
      | _ => s.answerPend c p true [])

/-- A parked access leaves its table and is answered. -/
def State.unpark (s : State) (h : CoreId) (e : Park) (bad : Bool) (w : Word) : State :=
  let s := s.modCore h fun x => { x with park := x.park.filter fun f => !(f.src == e.src && f.id == e.id) }
  match (s.core e.src).pend e.id with
  | some p => s.answerPend e.src p bad [w]
  | none => s

/-- Serve one parked access whose bit was right when the cycle began and is still right (R153, R336). -/
def State.servePark (s : State) (h : CoreId) (e : Park) : State :=
  if e.seen && s.feRight h e.off e.isStore && !(e.isStore && s.guardEnd h (s.sbt h) e.off 8 != 0) then
    let r := (s.useSpans h (s.sbt h) s.cycle [(e.off, 8)]).performFe h e.off e.isStore e.data
    r.2.unpark h e false r.1
  else s

/-- The park table's work of a cycle (R153, R336, R337): with `k` = 1 the entries are tried in their order, unless a checkpoint
holds the scratchpad; at the end of the cycle an entry whose block is gone fails, and the others look at their bits. -/
def execParkedAccessService (s : State) : Out :=
  let h := s.evt.core
  if s.evt.k = 1 then
    let s1 := if (s.core h).frozen || ((s.tile (s.tileOf h)).supply != .on && (s.tile (s.tileOf h)).supply != .closing) then s
      else (s.core h).park.foldl (fun s e => s.servePark h e) s
    .next (s1.lookPark h)
  else
    let gone := (s.core h).park.filter fun e => (blockSub (s.sbt h) e.off).isSome
    let s := gone.foldl (fun s e => s.unpark h e true 0) s
    let s := s.modCore h fun x =>
      { x with park := x.park.map fun e => { e with seen := s.feRight h e.off e.isStore } }
    .next (if (s.core h).park.isEmpty then s else s.after 1 2 .parkedAccessService { EvArg.ofCore h with k := 1 })

/-- The bound of a parked access runs out (R337). -/
def execParkBoundExpiry (s : State) : Out :=
  let h := s.evt.core
  match (s.core h).park.find? fun e => e.id == s.evt.id && e.src.val == s.evt.n && decide (e.due ≤ s.clock h) with
  | some e => .next (s.unpark h e true 0)
  | none => .next s

/-! ## Sending again -/

/-- A requester sends an access again (R334, R337): of a copy the leg to the address `a`. -/
def State.sendAgain (s : State) (c : CoreId) (p : Pend) (a : Nat) : State :=
  let again := fun (what : Instr) =>
    let way := s.wayInj c a
    if way = 0 then s.after ((s.homeOf c a).elim 0 readTerm) 2 what (argId c p.id) else s.sendClass (p.thr == .prim) c 1 way 2 what (argId c p.id)
  match p.kind with
  | .ratom => again .ratomAtHome
  | .decr => again .decrAtHome
  | .rldf | .rstf => again .fullEmptyRemoteArrival
  | .fill => s.netSend c a ((s.homeOf c a).elim 0 readTerm) .scavengerCacheFill p.id
  | .writeBack => s.netSend c a 2 .scavengerCacheWritebackAck p.id
  | _ =>
    if p.kind == .xkvg && !p.started then s.after 0 2 .queueEntryStart (argId c p.id)
    else (s.modPend c p.id fun q => { q with legs := q.legs + 1 }).sendLeg c p 1 (a, 0)

/-- A refusal of a full park table reaches the requester's interface (`k` = 1), which sends the request again 16 cycles later (R337). -/
def execParkRefusalResend (s : State) : Out :=
  let c := s.evt.core
  match (s.core c).pend s.evt.id with
  | some p =>
    .next (if p.performed then s
      else if s.evt.k = 1 then s.afterOn c 16 2 .parkRefusalResend (argId c p.id)
      else s.sendAgain c p p.a.toNat)
  | none => .next s

/-! ## Fault notices (R332, R333) -/

/-- The router towards another by dimension order, the side by which a packet enters it, and its cycles (R395). -/
def nextHop (at_ to_ : Nat × Nat) : (Nat × Nat) × Nat × Nat :=
  let n : (Nat × Nat) × Nat :=
    if at_.1 < to_.1 then ((at_.1 + 1, at_.2), 3)
    else if to_.1 < at_.1 then ((at_.1 - 1, at_.2), 1)
    else if at_.2 < to_.2 then ((at_.1, at_.2 + 1), 2)
    else ((at_.1, at_.2 - 1), 0)
  (n.1, n.2, routeCost at_ n.1)

/-- The die of a router. -/
def dieAt (r : RouterPos) : Fin 4 := ⟨(r.px / 14 + 2 * (r.py / 14)) % 4, Nat.mod_lt _ (by decide)⟩

/-- A router takes a notice (R332): merged with the entry of its key, or forwarded with an entry of its own, or, with the table
full, forwarded without. -/
def State.takeNotice (s : State) (r : RouterPos) (side : Nat) (n : Notice) : Bool × State :=
  let d := dieAt r
  let l := s.dies[d.val].faults
  match l.find? fun e => e.at_ == r && e.key == n.key with
  | some _ => (false, s.modDie d fun x => { x with faults := x.faults.map fun e =>
      if e.at_ == r && e.key == n.key then { e with mask := e.mask ||| (1#6 <<< side), src := if side = 4 then n.src else e.src } else e })
  | none =>
    if (l.filter fun e => e.at_ == r).length < 32 then
      (true, s.modDie d fun x => { x with faults := x.faults ++ [{ at_ := r, key := n.key, mask := 1#6 <<< side, src := n.src }] })
    else (true, s)

/-- A notice at a router (R332); at the supervisor core's router it becomes an XLATE record (R333, R368). -/
def execFaultNotice (s : State) : Out :=
  match s.evt.load with
  | .notice r side n =>
    let sup := supervisorOf (dieOf (heardBy n.src.toNat n.home.toNat))
    let t := s.takeNotice r side n
    if !t.1 then .next t.2
    else if (r.px, r.py) = s.xy sup then
      .next (t.2.after 1 2 .ringRecordWrite { EvArg.ofCore sup with
        load := .record (xlateRecord n.src.toNat n.home.toNat n.level.toNat false n.kind.toNat n.addr.toNat n.stamp) })
    else
      let h := nextHop (r.px, r.py) (s.xy sup)
      .next (t.2.after h.2.2 2 .faultNotice { s.evt with load := .notice ⟨h.1.1, h.1.2⟩ h.2.1 n })
  | _ => .next s

/-! ## Wakes (R334, R335) -/

/-- The router that a side leads to. -/
def sideOf (r : RouterPos) (side : Nat) : RouterPos :=
  match side with
  | 0 => ⟨r.px, r.py + 1⟩
  | 1 => ⟨r.px + 1, r.py⟩
  | 2 => ⟨r.px, r.py - 1⟩
  | _ => ⟨r.px - 1, r.py⟩

/-- A wake at a router: its entry is freed, and the wake goes to every port of its mask. -/
def State.wakeAt (s : State) (r : RouterPos) (key : BitVec 40) (refuse : Bool) : State :=
  let what : Instr := if refuse then .xwakeRefuse else .xwakeRetry
  let d := dieAt r
  match s.dies[d.val].faults.find? fun e => e.at_ == r && e.key == key with
  | none => s
  | some e =>
    let s := s.modDie d fun x => { x with faults := x.faults.filter fun f => !(f.at_ == r && f.key == key) }
    let w := BitVec.ofNat 64 (key.toNat * 2 ^ 16)
    (List.range 6).foldl (fun s side =>
      if !e.mask.getLsbD side then s
      else if side = 4 then
        s.after 1 2 .wakeAtRequester { EvArg.ofCore (coreOfNat e.src.toNat) with dw := w, k := if refuse then 1 else 0 }
      else if side = 5 then
        s.after 20 2 .wakeAtRequester { EvArg.ofCore 0 with dw := w, k := if refuse then 1 else 0, n := 1 }
      else
        let q := sideOf r side
        let n : Notice := { key := key, src := 0, home := 0, level := 0, kind := 0, addr := 0, stamp := 0 }
        s.after (routeCost (r.px, r.py) (q.px, q.py)) 2 what
          { EvArg.ofCore s.evt.core with dw := w, load := .notice q side n }) s

/-- A wake starts at the supervisor's router, or goes on at the router it has reached. -/
def State.wakeStep (s : State) (refuse : Bool) : State :=
  let key := faultKey s.evt.dw.toNat
  match s.evt.load with
  | .notice r _ _ => s.wakeAt r key refuse
  | _ => s.wakeAt ⟨(s.xy s.evt.core).1, (s.xy s.evt.core).2⟩ key refuse

def execXwakeRetry (s : State) : Out := .next (s.wakeStep false)
def execXwakeRefuse (s : State) : Out := .next (s.wakeStep true)

/-- A refused operation completes ERROR at the wake (R334): of a copy any destination bytes may be written before (R222). -/
def State.refusePend (s : State) (c : CoreId) (p : Pend) : State :=
  let copy := p.kind == .xcp || p.kind == .xcp2
  let s := s.modPend c p.id fun q => { q with err := true, performed := !copy, data := if p.writing then q.data else [] }
  (s.modCore c fun x => { x with waitWake := x.waitWake.filter fun w => w.2 != p.id }).completeIn c p.id 1

/-- An access that waits for a wake is sent again, or fails (R334): an entry with other keys outstanding waits for those too, and of a
gather or a scatter the other elements are moved (R224). -/
def State.wakePend (s : State) (c : CoreId) (p : Pend) (key : BitVec 40) (refuse : Bool) : State :=
  let net := (s.core c).qnet.any fun q => q.id == p.id
  if net && refuse then s.netFail c p
  else if refuse && p.kind != .xga && p.kind != .xsc && p.kind != .xkvg then s.refusePend c p
  else
    let s := s.modPend c p.id fun q =>
      if refuse then { q with refused := key :: q.refused } else { q with retried := true }
    s.sendAgain c (((s.core c).pend p.id).getD p) (if p.moves.isEmpty then p.a.toNat else key.toNat * 2 ^ 16)

/-- A wake reaches a requester's network interface (R334); with `n` = 1 it is the Terminus die's, whose Junction requests are sent
on to the Junction and whose host accesses are made again. -/
def execWakeAtRequester (s : State) : Out :=
  let c := s.evt.core
  let key := faultKey s.evt.dw.toNat
  let refuse := s.evt.k == 1
  if s.evt.n = 1 then
    let ws := s.term.waitWake.filter fun w => w.1 == key
    let hs := s.term.hostWait.filter fun w => w.1 == key
    let s := s.modTerm fun t =>
      { t with waitWake := t.waitWake.filter fun w => w.1 != key, hostWait := t.hostWait.filter fun w => w.1 != key }
    let s := hs.foldl (fun s w => s.after 0 2 .hostMemoryAccess { w.2.arg with k := if refuse then 2 else 0 }) s
    .next (ws.foldl (fun s w => s.after 0 2 .pagerRequestArrival { argId w.2.1 w.2.2 with k := if refuse then 2 else 1, dw := s.evt.dw }) s)
  else
    let ids := ((s.core c).waitWake.filter fun w => w.1 == key).map Prod.snd
    let s := s.modCore c fun x => { x with waitWake := x.waitWake.filter fun w => w.1 != key }
    .next (ids.foldl (fun s id =>
      match (s.core c).pend id, (s.core c).net id with
      | some p, _ => s.wakePend c p key refuse
      | none, some p => s.wakePend c p key refuse
      | none, none => s) s)

end Sys2Proof.Machine
end

