-- ==== Sys2Proof/Machine/Collective.lean ====
section
/-! DEFINITION. Collective groups (R226 to R228, R402 to R407, R524): contributions, the comparison and the exact combination at
the root, results and releases, `ABORT`. -/

namespace Sys2Proof.Machine

open Sys2Proof

/-! ## One contribution -/

/-- The use descriptor of a contribution (R524). -/
def useDesc (p : Pend) : Word :=
  BitVec.ofNat 64 (collRoot p.c * 2 ^ 32 + collCount p.c * 2 ^ 16 + p.x12.toNat / 2 ^ 8 % 4 * 2 ^ 12 +
    p.x12.toNat % 16 * 2 ^ 8 + p.x12.toNat / 2 ^ 4 % 16 * 2 ^ 4 + p.esz.toNat)

/-- The fields of a use descriptor. -/
def descRoot (d : Word) : Nat := Word.bits d 32 10
def descCount (d : Word) : Nat := Word.bits d 16 16
def descKind (d : Word) : Nat := Word.bits d 12 2
def descOp (d : Word) : Nat := Word.bits d 8 4
def descTy (d : Word) : Ty := collTy (Word.bits d 4 4) (d.extractLsb' 0 2)

/-- The bytes of a contribution or a result. -/
def descLen (d : Word) : Nat := descCount d * (eszWidth (d.extractLsb' 0 2) / 8)

/-! ## Combination (R64, R404) -/

/-- Elements of a byte list. -/
def elemsOf (w n : Nat) (bs : List Byte) : List Nat :=
  (List.range n).map fun i => bytesToNat ((bs.drop (i * (w / 8))).take (w / 8))

/-- The combination of one element over all contributions: sums exact and rounded once, extremes with the canonical NaN, integers
wrapped (R64, R226). -/
def combineElem (t : Ty) (code : Nat) (xs : List Nat) : Nat :=
  let f := fmtOf t
  match code with
  | 0 => if t.isFloat then (sumF f modeRn (xs.map (decodeF f))).bits else xs.sum % 2 ^ t.width
  | 1 | 2 =>
    if t.isFloat && xs.any (fun x => (decodeF f x).isNan) then f.nan
    else match xs with
      | [] => 0
      | x :: l => l.foldl (fun a y => (extremeE t false (code == 2) a y).bits) x
  | 3 => xs.foldl (fun a y => a &&& y) (2 ^ t.width - 1)
  | 4 => xs.foldl (fun a y => a ||| y) 0
  | _ => xs.foldl (fun a y => a ^^^ y) 0

/-- The result of a use: the combination of every element, or the root's source (R226). -/
def combineAll (d : Word) (cs : List Contrib) : List Byte :=
  let t := descTy d
  let n := descCount d
  let w := eszWidth (d.extractLsb' 0 2)
  let rows := cs.map fun c => elemsOf w n c.data
  (List.range n).flatMap fun i => natToBytes (w / 8) (combineElem t (descOp d) (rows.map fun r => (r[i]?).getD 0))

/-- E of R406: the flits of the widest link. -/
def collFlits (d : Word) (differed : Bool) : Nat :=
  if differed || descCount d == 0 then 0
  else
    let t := descTy d
    let b := if descKind d ≠ 2 && t.isFloat && descOp d = 0 then 48 else eszWidth (d.extractLsb' 0 2) / 8
    (descCount d * b + 31) / 32

/-! ## Uses -/

def Group.use (g : Group) (n : Nat) : Option Use := g.opens.find? fun u => u.num == n
def Group.setUse (g : Group) (u : Use) : Group :=
  { g with opens := g.opens.map fun v => if v.num == u.num then u else v }
def Use.fresh (n : Nat) (mask : BitVec 1024) : Use :=
  { num := n, mask := mask, joined := [], contribs := [], differed := false, sent := false, rootAt := 0, result := [], released := [] }

/-- How many uses have released at a member. -/
def Group.passedAt (g : Group) (c : CoreId) : Nat := ((g.passed.find? fun p => p.1 == c.val).map Prod.snd).getD 0
def Group.pass (g : Group) (c : CoreId) (n : Nat) : Group :=
  { g with passed := (c.val, max n (g.passedAt c)) :: g.passed.filter fun p => p.1 != c.val }

/-- The members of a use: those of its group when it opened (R402). -/
def Use.members (u : Use) : List CoreId := (membersOf u.mask).map coreOfNat

/-- The use of a queue entry (R407). -/
def Pend.use (p : Pend) : Nat := ((p.ws[0]?).getD 0).toNat

/-- The head of `Q.CO` is tried again. -/
def State.kickColl (s : State) (c : CoreId) : State :=
  match (s.core c).qco.head? with
  | some p => if p.kind == .xcoll && p.started && !p.performed then s.after 0 2 .collectiveSourceRead (argId c p.id) else s
  | none => s

/-- A use that has released everywhere and has had every contribution is forgotten. -/
def Group.close (g : Group) (u : Use) : Group :=
  if u.over && u.members.all fun m => u.contribs.any fun k => k.core == m then
    { g with opens := g.opens.filter fun v => v.num != u.num }
  else g.setUse u

/-- A use releases at a member (R405): when it has released everywhere `USES` advances. The root still compares the contributions of a
broadcast that are on their way (R227). -/
def State.releaseUse (s : State) (gi : Nat) (n : Nat) (c : CoreId) : State :=
  let g := (s.group gi).pass c (n + 1)
  let g := match g.use n with
    | none => g
    | some u =>
      let v := { u with released := c :: u.released }
      (if v.over && !u.over then { g with uses := g.uses + 1 } else g).close v
  (s.setGroup gi g).kickColl c

/-- The time of a result or release at a member after the root sends it (R406): 0 at the root. -/
def State.downTime (s : State) (root m : CoreId) : Nat := if root = m then 0 else s.oneWay root m

/-- A result is due at a member in cycle `at_`, and is written in the cycle before (R220); with `bad` the root's error release (R227). -/
def State.sendResult (s : State) (gi n : Nat) (bad : Bool) (m : CoreId) (at_ : Nat) : State :=
  s.after (at_ - 1 - s.cycle) 2 .collectiveResultArrival { EvArg.ofCore m with id := gi, n := n, k := if bad then 1 else 0 }

/-- Packets of a collective leave an interface in the class of the thread (R396; log 105). -/
def State.injectColl (s : State) (c : CoreId) (t : Thr) (n : Nat) : State :=
  s.sendClass (t == .prim) c n 0 2 .remoteAccessAtHome { EvArg.ofCore c with k := 8 }

/-! ## The head of `Q.CO` (R227, R403) -/

/-- A member's `XCOLL` joins its use: the source is read and the contribution travels to the root (R227, R404). A broadcast's data
travels outward at once (R406). A contribution that waits for the injection slot counts as read when it leaves (R396). -/
def State.joinUse (s : State) (c : CoreId) (p : Pend) (gi : Nat) : State :=
  let d := useDesc p
  let root := coreOfNat (descRoot d)
  let r := if descKind d = 2 && root ≠ c then ([], s) else s.engineRead c p p.b.toNat (descLen d)
  let s := r.2.modPend c p.id fun q => { q with performed := true, data := r.1 }
  let s := s.useSpans c p.sbt s.cycle [(p.b.toNat, r.1.length)]
  let wait := if root = c then 0 else s.slotWait c
  let s := if root = c then s else s.injectColl c p.thr (max 1 (collFlits d false))
  let g := s.group gi
  let g := if (g.use p.use).isSome then g else { g with opens := g.opens ++ [Use.fresh p.use g.mask] }
  let u := (g.use p.use).getD (Use.fresh p.use g.mask)
  let bc := descKind d == 2
  let u := { u with joined := u.joined ++ [(c, s.cycle + wait)] }
  let isRoot := bc && root = c
  let u := if isRoot then { u with sent := true, rootAt := s.cycle, result := r.1 } else u
  let s := s.setGroup gi (g.setUse u)
  let s := s.after (wait + s.oneWay c root) 2 .collectiveRootCombine { argId c p.id with k := gi, n := p.use, dw := d, load := .bytes r.1, port := .portA }
  if !bc || u.differed then s
  else
    let at_ := fun (m : CoreId) (joined : Nat) =>
      max (u.rootAt + s.downTime root m + collFlits d false + 4) (joined + collFlits d false + 4)
    if isRoot then
      (u.joined.foldl (fun s q => s.sendResult gi p.use false q.1 (at_ q.1 q.2)) s).injectColl c p.thr (max 1 (collFlits d false))
    else if u.sent then s.sendResult gi p.use false c (at_ c s.cycle)
    else s

/-- An `XCOLL` at the head of `Q.CO`: it fails at once (R403, R407), waits for the previous use to release here, or joins. -/
def execCollectiveSourceRead (s : State) : Out :=
  let c := s.evt.core
  match (s.core c).pend s.evt.id with
  | none => .next s
  | some p =>
    if p.performed then .next s
    else
      let gi := collGroup p.c
      let g := s.group gi
      let fail := fun (s : State) =>
        (s.modPend c p.id fun q => { q with performed := true, err := true }).completeIn c p.id 1
      if !g.v || !g.mask.getLsbD c.val || !g.mask.getLsbD (collRoot p.c) then .next (fail s)
      else if g.aborted.contains p.use then .next (fail (s.setGroup gi (g.pass c (p.use + 1))))
      else if p.use ≤ g.passedAt c then .next (s.joinUse c p gi)
      else .next s

/-! ## The root (R227, R404, R524) -/

/-- A COLLERR record (R524). -/
def collErr (gi root memb : Nat) (first diff : Word) (now : Word) (uses : BitVec 16) : Rec64 :=
  #v[BitVec.ofNat 64 (gi * 2 ^ 48 + root * 2 ^ 32 + memb * 2 ^ 16 + 0x26), first, diff, now, uses.setWidth 64, 0, 0, 0]

/-- A contribution arrives at the root; the first difference sends a record, and when every member has contributed the result or
the error release goes out: in the time that R406 counts from the last member's read of its source. -/
def execCollectiveRootCombine (s : State) : Out :=
  let c := s.evt.core
  let gi := s.evt.k
  let g := s.group gi
  match g.use s.evt.n, s.evt.load with
  | some u, .bytes bs =>
    let d := s.evt.dw
    let first := match u.contribs with | f :: _ => f.desc | [] => d
    let root := coreOfNat (descRoot first)
    let read := ((u.joined.find? fun q => q.1 == c).map Prod.snd).getD s.cycle
    let cs := u.contribs ++ [{ core := c, id := s.evt.id, desc := d, data := bs, at_ := read }]
    let newly := d != first && !u.differed
    let s := if newly then s.sendRecord root (dieOf root) (collErr gi root.val c.val first d s.tsc g.uses) else s
    let u := { u with contribs := cs, differed := u.differed || d != first }
    let complete := u.members.all fun m => cs.any fun k => k.core == m
    if !complete || (descKind first = 2 && !u.differed) then .next (s.setGroup gi (g.close u))
    else
      let last := cs.foldl (fun m k => max m k.at_) 0
      let up := cs.foldl (fun m k => max m (s.oneWay k.core root)) 0
      let base := last + up + collFlits first u.differed + 4
      let u := { u with sent := true, result := if u.differed then [] else combineAll first cs }
      let s := s.setGroup gi (g.close u)
      let thr := ((cs.find? fun k => k.core == root).bind fun k => (s.core root).pend k.id).elim .prim Pend.thr
      .next ((cs.foldl (fun s k =>
        if u.released.contains k.core then s else s.sendResult gi u.num u.differed k.core (base + s.downTime root k.core)) s).injectColl
          root thr (max 1 (collFlits first u.differed)))
  | _, _ => .next s

/-! ## Results and releases (R405, R406) -/

/-- Whether a member receives the result of a use (R226). -/
def receives (d : Word) (c : CoreId) : Bool :=
  descCount d != 0 && (descKind d != 1 || descRoot d == c.val)

/-- The queue entry of a member's use. -/
def Core.collEntry (x : Core) (gi n : Nat) : Option Pend :=
  x.qco.find? fun p => p.kind == .xcoll && collGroup p.c == gi && p.use == n && p.performed

/-- A result or a release reaches a member: its destination is written, held by an operand guard or a frozen scratchpad, in the cycle before its
tag completes and, with `k` = 2, the use releases here (R202, R220, R405). Of a use whose contributions have differed only the error release counts (R227): members of
a broadcast that were served before are not called back (log 79). -/
def execCollectiveResultArrival (s : State) : Out :=
  let c := s.evt.core
  let gi := s.evt.id
  match (s.group gi).use s.evt.n, (s.core c).collEntry gi s.evt.n with
  | some u, some p =>
    if s.evt.k = 2 then .next (if u.released.contains c then s else s.releaseUse gi u.num c)
    else if u.released.contains c || p.writing || (u.differed && s.evt.k = 0) then .next s
    else match s.putOff c false .collectiveResultArrival with
    | some t => .next t
    | none =>
      let d := useDesc p
      let q := { p with writing := true, err := u.differed, data := if u.differed || !receives d c then [] else u.result }
      .next (((s.modPend c p.id fun _ => q).after 1 0 .collectiveResultArrival { s.evt with k := 2 }).completeIn c p.id 1)
  | _, _ => .next s

/-! ## Writes of the group table (R402, R407) -/

/-- After a change of `V` or `MASK` the members are level again (R407; log 10): the uses are numbered on from one that none has reached, an
`XCOLL` that waits in `Q.CO` belongs to the first of them and is tried again, and a member that owes a share of an aborted use still owes it. -/
def State.levelGroup (s : State) (gi : Nat) (was : BitVec 1024) : State :=
  let g := s.group gi
  let cores := (List.range 1024).map coreOfNat
  let top := g.issued.foldl (fun m p => max m p.2) (g.aborted.foldl (fun m n => max m (n + 1)) 0)
  let owes := fun (c : CoreId) => if was.getLsbD c.val then (g.aborted.filter fun n => decide (g.count c ≤ n)).length else 0
  let most := cores.foldl (fun m c => max m (owes c)) 0
  let next := top + most
  let mine := fun (p : Pend) => p.kind == .xcoll && collGroup p.c == gi && !p.performed && !g.aborted.contains p.use
  let s := cores.foldl (fun s c =>
    if ((s.core c).qco.any mine) then s.modCore c fun x =>
      { x with qco := (x.qco.foldl (fun (a : List Pend × Nat) p =>
          if mine p then ({ p with ws := [BitVec.ofNat 64 a.2] } :: a.1, a.2 + 1) else (p :: a.1, a.2)) ([], next)).1.reverse }
    else s) s
  let issued := cores.filterMap fun c =>
    let n := next + ((s.core c).qco.filter mine).length - owes c
    if n = 0 then none else some (c.val, n)
  let s := s.setGroup gi { g with
    aborted := (List.range most).map (fun i => top + i) ++ g.aborted, issued := issued
    passed := if next = 0 then [] else cores.map fun c => (c.val, next) }
  cores.foldl (fun s c => if (s.core c).qco.isEmpty then s else s.kickColl c) s

/-- A write of a group's entry: refused while a use is open if it would change `V` or `MASK`. -/
def execCollectiveGroupWrite (s : State) : Out :=
  let off := s.evt.n
  let w := s.evt.dw
  let port := s.evt.port
  if off < 0x30000 ∨ 0x40000 ≤ off ∨ off % 8 ≠ 0 then .next (s.answerHost port 1)
  else
    let gi := (off - 0x30000) / 256
    let o := off % 256
    let g := s.group gi
    if o = 0 then
      let changes := g.v != w.getLsbD 63
      if changes && g.busy then .next (s.answerHost port 1)
      else
        let s := if changes then (s.setGroup gi { g with v := w.getLsbD 63 }).levelGroup gi g.mask else s
        let s := if w.getLsbD 62 then s.after 0 2 .collectiveAbort { EvArg.ofCore 0 with n := gi } else s
        .next (s.answerHost port 0)
    else if 0x80 ≤ o then
      let i := (o - 0x80) / 8
      let m := (g.mask &&& ~~~((BitVec.allOnes 64).setWidth 1024 <<< (64 * i))) ||| (w.setWidth 1024 <<< (64 * i))
      if m = g.mask then .next (s.answerHost port 0)
      else if g.busy then .next (s.answerHost port 1)
      else .next (((s.setGroup gi { g with mask := m }).levelGroup gi g.mask).answerHost port 0)
    else .next (s.answerHost port 1)

/-- A member's collective ends with ERROR; of a result that the root has begun to send, its destination takes any mix of old and new elements
(R407). -/
def State.mixResult (s : State) (c : CoreId) (p : Pend) (u : Use) : State :=
  let b := eszWidth p.esz / 8
  let n := if u.sent && !u.differed && receives (useDesc p) c then collCount p.c else 0
  let r := (List.range n).foldl (fun (r : List Move × State) i =>
    (if Config.freeBool r.2.free then r.1 ++ [⟨i * b, p.a.toNat + i * b, b, true⟩] else r.1, r.2.tickFree)) ([], s)
  (r.2.modPend c p.id fun q => { q with err := true, writing := true, data := u.result, moves := r.1 }).completeIn c p.id 1

/-- One open use ends (R407). -/
def State.abortUse (s : State) (gi : Nat) (u : Use) : State :=
  let ms := u.members
  let s := ms.foldl (fun s c =>
    if u.released.contains c then s
    else match (s.core c).collEntry gi u.num with
      | some p => s.mixResult c p u
      | none => s) s
  let g := s.group gi
  let g := ms.foldl (fun g c => g.pass c (u.num + 1)) g
  let g := { g with opens := g.opens.filter (fun v => v.num != u.num), uses := g.uses + 1, aborted := u.num :: g.aborted }
  ms.foldl (fun s c => s.kickColl c) (s.setGroup gi g)

/-- `ABORT` ends every open use, in increasing order (R407). -/
def execCollectiveAbort (s : State) : Out :=
  let gi := s.evt.n % 256
  let g := s.group gi
  let us := ((g.opens.filter fun u => !u.over).map Use.num).foldl insertNat []
  .next (us.foldl (fun s n => match (s.group gi).use n with | some u => s.abortUse gi u | none => s) s)

end Sys2Proof.Machine
end

