-- ==== Sys2Proof/Machine/Arena.lean ====
section
/-! DEFINITION. The tables of the key-value arena as the Junction reads and writes them (R415 to R423): arena descriptors, sequence
descriptors, block tables, location entries, tree nodes and child tables. -/

namespace Sys2Proof.Machine

open Sys2Proof

/-! ## The Junction's accesses -/

/-- Why a request of the Junction stops: an error with the cause of its ARENA record (0 for none), an address and a block; a fault
that waits for a wake, with the cycles that walks took before it; a refused translation (R329, R431); a wait for a block being copied or a
place being reclaimed (R252, R425). -/
inductive JErr where
  | wait
  | bad (cause addr pbn : Nat)
  | fault (home kind level addr walked : Nat)
  | refused (home level addr : Nat)

/-- A transaction of the Junction: all of its changes are made, or none (R252, R253). -/
abbrev J := StateT State (Except JErr)

/-- No block (R418). -/
def noBlock : Nat := 0xFFFFFF

/-- Ask the home of an address, for an agent of a core: the access takes a place at the home's port (R397), and the cycles of its walk count
(R330). An address of 0 in an error stands for the request's descriptor. -/
def jAsk (c : CoreId) (a len : Nat) (rd : Bool) (acc : Acc) : J Answer := fun s =>
  if !addrIn [2, 3, 4, 8] (BitVec.ofNat 64 a) || decide (2 ^ 64 ≤ a) then .error (.bad 0 0 noBlock)
  else
    let r := s.answer c a len rd acc
    match r.1 with
    | .error => .error (.bad (if (s.homeOf c a).isNone then 0 else 3) 0 noBlock)
    | .refused h l => .error (.refused h l a)
    | .fault h k l => .error (.fault h k l a (s.term.junction.walked + r.2.2))
    | w =>
      let t := r.2.1.modTerm fun t => { t with junction := { t.junction with walked := t.junction.walked + r.2.2 } }
      .ok (w, match (s.homeOf c a).bind s.portOf with | some p => t.takePlaces p 1 | none => t)

/-- Run a transaction, whose walks are counted from 0. -/
def State.runJ {α : Type} (s : State) (f : J α) : Except JErr (α × State) :=
  f (s.modTerm fun t => { t with junction := { t.junction with walked := 0 } })

/-- Read n bytes as a number. -/
def jRead (c : CoreId) (a n : Nat) : J Nat := do
  let w ← jAsk c a n true accRead
  let s ← get
  return bytesToNat (s.readAt w n)

/-- Write n bytes, as the Junction (R338, R339). -/
def jWrite (c : CoreId) (a n v : Nat) : J Unit := do
  let w ← jAsk c a n false accJunction
  modify fun s => s.writeAt w true ⟨0x3FF, 9, 4⟩ a (natToBytes n v)

/-- The node and the block that an error of some accesses names (R432), where they name none. -/
def jNaming {α : Type} (addr pbn : Nat) (f : J α) : J α := fun s =>
  match f s with
  | .error (.bad cause a p) => .error (.bad cause (if a = 0 then addr else a) (if p = noBlock then pbn else p))
  | r => r

/-- Stop with an error. -/
def jBad {α : Type} (cause addr pbn : Nat) : J α := fun _ => .error (.bad cause addr pbn)

/-! ## Arena descriptors (R415) -/

/-- A field of an arena descriptor. -/
def Arena.get (a : Arena) (i lo len : Nat) : Nat := Word.bits ((a.dws.toList[i]?).getD 0) lo len
/-- Replace a field. -/
def Arena.put (a : Arena) (i lo len v : Nat) : Arena :=
  let w := ((a.dws.toList[i]?).getD 0).toNat
  { a with dws := vset a.dws i (BitVec.ofNat 64 (w - w / 2 ^ lo % 2 ^ len * 2 ^ lo + v % 2 ^ len * 2 ^ lo)) }

def Arena.v (a : Arena) : Bool := a.get 0 63 1 == 1
def Arena.layers (a : Arena) : Nat := a.get 0 40 8
def Arena.slg (a : Arena) : Nat := a.get 0 32 5
def Arena.nblk (a : Arena) : Nat := a.get 0 0 24
def Arena.gbase (a : Arena) : Nat := a.get 1 0 56
def Arena.sbase (a : Arena) : Nat := a.get 2 0 56
def Arena.bltb (a : Arena) : Nat := a.get 3 0 56
def Arena.root (a : Arena) : Nat := a.get 4 0 56
def Arena.npb (a : Arena) : Nat := a.get 5 0 56
def Arena.nfree (a : Arena) : Nat := a.get 6 24 24
def Arena.npn (a : Arena) : Nat := a.get 6 0 24
def Arena.ctpb (a : Arena) : Nat := a.get 7 0 56
def Arena.ctpn (a : Arena) : Nat := a.get 8 0 24
def Arena.scap (a : Arena) : Nat := a.get 9 24 24
def Arena.gcap (a : Arena) : Nat := a.get 9 0 24
def Arena.sused (a : Arena) : Nat := a.get 10 24 24
def Arena.gused (a : Arena) : Nat := a.get 10 0 24
def Arena.freehd (a : Arena) : Nat := a.get 11 0 24

/-- The bytes of a block in a tier. -/
def Arena.blockLen (a : Arena) : Nat := a.layers * 2 ^ a.slg
/-- The place of a block in a tier (R416). -/
def Arena.place (a : Arena) (sump : Bool) (p : Nat) : Nat := (if sump then a.sbase else a.gbase) + p * a.blockLen
/-- The used count of a tier (R426). -/
def Arena.used (a : Arena) (sump : Bool) : Nat := if sump then a.sused else a.gused
def Arena.addUsed (a : Arena) (sump : Bool) (n : Nat) : Arena := a.put 10 (if sump then 24 else 0) 24 (a.used sump + n)
def Arena.subUsed (a : Arena) (sump : Bool) (n : Nat) : Arena := a.put 10 (if sump then 24 else 0) 24 (a.used sump - n)
/-- Free child-table slots, with the count that software reads. -/
def Arena.setCt (a : Arena) (l : List Nat) : Arena := { a with ctfree := l }.put 8 24 24 l.length

/-- The arena of a number. -/
def jArena (n : Nat) : J Arena := do return (← get).arena n
def jModArena (n : Nat) (f : Arena → Arena) : J Unit := modify fun s => s.setArena n (f (s.arena n))

/-! ## Sequences (R417, R418) -/

/-- A sequence descriptor. -/
structure Sqd where
  addr : Nat
  v : Bool
  arena : Nat
  btb : Nat
  cap : Nat
  blocks : Nat
  tokens : Nat
  deriving DecidableEq, Repr

def readSqd (c : CoreId) (a : Nat) : J Sqd := do
  let d0 ← jRead c a 8
  let d1 ← jRead c (a + 8) 8
  return { addr := a, v := d0 / 2 ^ 63 == 1, arena := d0 / 2 ^ 56 % 16, btb := d0 % 2 ^ 56, cap := d1 / 2 ^ 44,
           blocks := d1 / 2 ^ 24 % 2 ^ 20, tokens := d1 % 2 ^ 24 }

/-- Whether counts of blocks and tokens agree (R417). -/
def Sqd.counts (q : Sqd) : Bool :=
  decide (q.blocks ≤ q.cap) &&
  (if q.blocks = 0 then q.tokens == 0 else decide (16 * (q.blocks - 1) < q.tokens) && decide (q.tokens ≤ 16 * q.blocks))

/-- A descriptor that is valid for a request (R417), with its arena, which was in service when the request arrived (R415). -/
def validSqd (c : CoreId) (inService : BitVec 16) (a : Nat) : J (Sqd × Arena) := do
  let q ← readSqd c a
  let ar ← jArena q.arena
  if q.v && inService.getLsbD q.arena && q.counts then
    if addrIn [2, 3, 8] (BitVec.ofNat 64 q.btb) && q.btb % 64 == 0 then return (q, ar) else jBad 0 a noBlock
  else jBad 1 a noBlock

/-- Write the counts of a descriptor. -/
def writeCounts (c : CoreId) (q : Sqd) (blocks tokens : Nat) : J Unit :=
  jWrite c (q.addr + 8) 8 (q.cap * 2 ^ 44 + blocks * 2 ^ 24 + tokens)

/-- A block table entry: pin and block number. -/
def readBt (c : CoreId) (q : Sqd) (i : Nat) : J (Bool × Nat) := do
  let w ← jRead c (q.btb + 4 * i) 4
  return (w / 2 ^ 31 == 1, w % 2 ^ 24)
def writeBt (c : CoreId) (q : Sqd) (i : Nat) (pin : Bool) (p : Nat) : J Unit :=
  jWrite c (q.btb + 4 * i) 4 ((if pin then 2 ^ 31 else 0) + p)

/-! ## Location entries (R419, R420) -/

/-- A location entry. States: 0 `FREE`, 1 `LIVE`, 2 `MOVING`, 3 `COWSRC`, 4 `HELD`. -/
structure Blt where
  refs : Nat
  pins : Nat
  state : Nat
  sump : Bool
  touch : Nat
  deriving DecidableEq, Repr

/-- The entry of a block; a number beyond the arena's blocks names none (R431 cause 2). -/
def readBlt (c : CoreId) (a : Arena) (p : Nat) : J Blt := do
  if a.nblk ≤ p then jBad 2 0 p
  else
    let w ← jNaming 0 p (jRead c (a.bltb + 8 * p) 8)
    return { refs := w / 2 ^ 48, pins := w / 2 ^ 32 % 2 ^ 16, state := w / 2 ^ 29 % 8, sump := w / 2 ^ 28 % 2 == 1, touch := w % 2 ^ 28 }
def writeBlt (c : CoreId) (a : Arena) (p : Nat) (e : Blt) : J Unit :=
  jWrite c (a.bltb + 8 * p) 8
    (e.refs * 2 ^ 48 + e.pins * 2 ^ 32 + e.state * 2 ^ 29 + (if e.sump then 2 ^ 28 else 0) + e.touch)
def modBlt (c : CoreId) (a : Arena) (p : Nat) (f : Blt → Blt) : J Unit := do writeBlt c a p (f (← readBlt c a p))

/-- The entry of a block that a block table or a node names (R431 cause 2). -/
def namedBlt (c : CoreId) (a : Arena) (p addr : Nat) : J Blt := do
  if a.nblk ≤ p then jBad 2 addr p
  else
    let e ← readBlt c a p
    if e.state = 1 ∨ e.state = 2 ∨ e.state = 3 then return e else jBad 2 addr p

/-- The touch stamp of a time (R420), and the age of a stamp. -/
def stampOf (w : Word) : Nat := Word.bits w 16 28
def ageOf (now x : Nat) : Nat := (now + 2 ^ 28 - x) % 2 ^ 28

/-- A completion point touches a block. -/
def touchBlock (c : CoreId) (a : Arena) (p : Nat) : J Unit := do
  let t := stampOf (← get).tsc
  modBlt c a p fun e => { e with touch := t }

/-- Take the head of the free list: its block is counted in the gallery (R423, R424). -/
def takeFree (c : CoreId) (n : Nat) : J Nat := do
  let a ← jArena n
  let p := a.freehd
  let e ← readBlt c a p
  if e.state ≠ 0 then jBad 2 0 p
  else
    jModArena n fun a => (a.put 11 0 24 (e.touch % 2 ^ 24)).addUsed false 1
    return p

/-- Put blocks that were taken, and named by nothing, back on the head of the free list (R424): in the reverse order, which restores their
chain. -/
def untake (c : CoreId) (n : Nat) (ps : List Nat) : J Unit := ps.reverse.forM fun p => do
  let a ← jArena n
  let e ← readBlt c a p
  if e.touch % 2 ^ 24 ≠ a.freehd then writeBlt c a p { e with touch := a.freehd }
  jModArena n fun a => (a.put 11 0 24 p).subUsed false 1

/-- Put a block on the free list; its tier's count falls (R423, R429). -/
def putFree (c : CoreId) (n p : Nat) (sump : Bool) : J Unit := do
  let a ← jArena n
  writeBlt c a p { refs := 0, pins := 0, state := 0, sump := false, touch := a.freehd }
  jModArena n fun a => (a.put 11 0 24 p).subUsed sump 1

/-- How many blocks the free list holds, counted up to a number. -/
def countFree (c : CoreId) (a : Arena) : Nat → Nat → J Nat
  | 0, _ => return 0
  | n + 1, p => do
    if a.nblk ≤ p then return 0
    else
      let e ← readBlt c a p
      return 1 + (← countFree c a n (e.touch % 2 ^ 24))

/-! ## The reclaim queue (R428) -/

/-- An entry for a place; a full queue is ruled out before a completion point (`roomFor`). -/
def addReclaim (n p : Nat) (sump : Bool) : J Unit := modify fun s =>
  let e : Reclaim := { arena := n, pbn := p, sump := sump, stamp := s.tsc }
  s.modTerm fun t => { t with junction := { t.junction with reclaim := t.junction.reclaim ++ [e] } }

/-- A block gives up one reference (R423): at 0 it is held until reclaim. -/
def dropRef (c : CoreId) (n p addr : Nat) : J Unit := do
  let a ← jArena n
  let e ← namedBlt c a p addr
  if e.refs = 0 then jBad 2 addr p
  else if e.refs = 1 then
    writeBlt c a p { e with refs := 0, state := 4 }
    addReclaim n p e.sump
  else writeBlt c a p { e with refs := e.refs - 1 }

/-! ## The tree (R421, R422) -/

/-- A tree node. -/
structure Node where
  addr : Nat
  v : Bool
  parent : Nat
  fill : Nat
  pbn : Nat
  cht : Nat
  cap : Nat
  n : Nat
  toks : List Nat
  deriving DecidableEq, Repr

/-- Read a node; one with `V` = 0, unless the root, is a broken tree (R431 cause 2). -/
def readNode (c : CoreId) (ar : Arena) (a : Nat) : J Node := jNaming a noBlock do
  let d0 ← jRead c a 8
  let d1 ← jRead c (a + 8) 8
  let d2 ← jRead c (a + 16) 8
  let d3 ← jRead c (a + 24) 8
  let tk ← jRead c (a + 32) 64
  let fill := d1 / 2 ^ 24 % 32
  if a ≠ ar.root ∧ d0 / 2 ^ 63 ≠ 1 then jBad 2 a noBlock
  else
    return { addr := a, v := d0 / 2 ^ 63 == 1, parent := d0 % 2 ^ 56, fill := fill, pbn := d1 % 2 ^ 24, cht := d2 % 2 ^ 56,
             cap := d3 / 2 ^ 16 % 2 ^ 16, n := d3 % 2 ^ 16, toks := (List.range (min fill 16)).map fun i => tk / 2 ^ (32 * i) % 2 ^ 32 }

/-- Write a node. -/
def writeNode (c : CoreId) (x : Node) : J Unit := do
  jWrite c x.addr 8 ((if x.v then 2 ^ 63 else 0) + x.parent)
  jWrite c (x.addr + 8) 8 (x.fill * 2 ^ 24 + x.pbn)
  jWrite c (x.addr + 16) 8 x.cht
  jWrite c (x.addr + 24) 8 (x.cap * 2 ^ 16 + x.n)
  jWrite c (x.addr + 32) 64 (bytesToNat ((x.toks ++ List.replicate (16 - x.toks.length) 0).flatMap fun t => natToBytes 4 t))

/-- The children of a node, in the order of its table. -/
def childAddrs (c : CoreId) (x : Node) : J (List Nat) := jNaming x.addr noBlock <| (List.range x.n).mapM fun i => do return (← jRead c (x.cht + 8 * i) 8) % 2 ^ 56
def children (c : CoreId) (ar : Arena) (x : Node) : J (List Node) := do (← childAddrs c x).mapM fun a => readNode c ar a

/-- The lowest run of c free slots whose first is a multiple of c (R422). -/
def ctRun (l : List Nat) (c : Nat) : Option Nat := l.find? fun i => i % c == 0 && (List.range c).all fun j => l.contains (i + j)

/-- Add a child to a node's table, which grows when it is full (R422); false when the pool has no table. -/
def addChild (c : CoreId) (n : Nat) (x : Node) (child : Nat) : J Bool := do
  if x.n < x.cap then
    jWrite c (x.cht + 8 * x.n) 8 child
    writeNode c { x with n := x.n + 1 }
    return true
  else
    let cap := if x.cap = 0 then 1 else 2 * x.cap
    let a ← jArena n
    match (if 4096 < cap then none else ctRun a.ctfree cap) with
    | none => return false
    | some i =>
      let cht := a.ctpb + 8 * i
      let old ← childAddrs c x
      (old ++ [child]).zipIdx.forM fun q => jWrite c (cht + 8 * q.2) 8 q.1
      let back := (List.range x.cap).map fun j => (x.cht - a.ctpb) / 8 + j
      let left := a.ctfree.filter fun j => !((List.range cap).map fun k => i + k).contains j
      jModArena n fun a => a.setCt (back.foldl insertNat left)
      writeNode c { x with cht := cht, cap := cap, n := x.n + 1 }
      return true

/-- Take a node from the pool (R422): its address, or none. -/
def takeNode (c : CoreId) (n : Nat) : J (Option Nat) := do
  let a ← jArena n
  if a.nhead = 0 then return none
  else
    let next ← jRead c a.nhead 8
    jModArena n fun b => { b with nhead := next % 2 ^ 56 }.put 6 24 24 (b.nfree - 1)
    return some a.nhead

/-- Remove a leaf from the tree (R422): the entries after it shift down, its slots and the node itself are free again. -/
def removeLeaf (c : CoreId) (n : Nat) (x : Node) : J Unit := do
  let a ← jArena n
  let par ← readNode c a x.parent
  let kids := (← childAddrs c par).filter fun k => k != x.addr
  kids.zipIdx.forM fun q => jWrite c (par.cht + 8 * q.2) 8 q.1
  writeNode c { par with n := par.n - 1 }
  let back := (List.range x.cap).map fun j => (x.cht - a.ctpb) / 8 + j
  jModArena n fun b => (b.setCt (back.foldl insertNat b.ctfree)).put 6 24 24 (b.nfree + 1)
  (List.range 16).forM fun i => jWrite c (x.addr + 8 * i) 8 0
  jWrite c x.addr 8 a.nhead
  jModArena n fun b => { b with nhead := x.addr }

/-- The nodes that can be reached from some nodes, at most as many as the fuel. -/
def reachable (c : CoreId) (ar : Arena) : Nat → List Nat → J (List Node)
  | 0, _ => return []
  | _, [] => return []
  | n + 1, a :: l => do
    let x ← readNode c ar a
    let kids ← childAddrs c x
    return x :: (← reachable c ar n (kids ++ l))

/-! ## Eviction (R427) -/

/-- The leaf that is evicted first: no children, a block with one reference and no pin that is not being copied; oldest touch first,
then lower block number. -/
def evictable (c : CoreId) (n : Nat) : J (Option Node) := do
  let a ← jArena n
  let now := stampOf (← get).tsc
  let xs ← reachable c a (a.npn + 2) [a.root]
  let ls := xs.filter fun x => x.n == 0 && x.addr != a.root
  let cs ← ls.filterMapM fun x => do
    let e ← jNaming x.addr noBlock (namedBlt c a x.pbn x.addr)
    return if e.refs = 1 ∧ e.pins = 0 ∧ e.state = 1 then some (x, ageOf now e.touch) else none
  return (cs.foldl (fun (best : Option (Node × Nat)) q =>
    match best with
    | none => some q
    | some b => if b.2 < q.2 ∨ (b.2 = q.2 ∧ q.1.pbn < b.1.pbn) then some q else some b) none).map Prod.fst

/-- Evict one leaf: false when none qualifies. -/
def evictOne (c : CoreId) (n : Nat) : J Bool := do
  match ← evictable c n with
  | none => return false
  | some x =>
    removeLeaf c n x
    dropRef c n x.pbn x.addr
    return true

/-! ## Putting an arena in service (R415) -/

/-- The limits of a descriptor. -/
def Arena.limits (a : Arena) : Bool :=
  decide (1 ≤ a.layers) && decide (8 ≤ a.slg) && decide (a.slg ≤ 20) && decide (a.nblk ≤ noBlock) &&
  domOf a.gbase == 3 && a.gbase % 2 ^ a.slg == 0 && domOf a.sbase == 4 && a.sbase % 2 ^ a.slg == 0 &&
  domOf a.bltb == 3 && a.bltb % 8 == 0 && a.npb % 128 == 0 && a.ctpb % 8 == 0

/-- A read that may fail: what cannot be read as an arena goes into service is passed over, since the initial contents are not
checked (R415). -/
def quiet {α : Type} (j : J α) : J (Option α) := fun s =>
  match j s with
  | .ok (x, t) => .ok (some x, t)
  | .error _ => .ok (none, s)

/-- The free nodes from the head of the pool's chain, at most as many as the fuel. -/
def countNodes (c : CoreId) : Nat → Nat → J Nat
  | 0, _ => return 0
  | n + 1, a => do
    if a = 0 then return 0
    else match ← quiet (jRead c a 8) with
      | none => return 1
      | some x => return 1 + (← countNodes c n (x % 2 ^ 56))

/-- The valid nodes that can be reached from some nodes, at most as many as the fuel. -/
def reachableValid (c : CoreId) (ar : Arena) : Nat → List Nat → J (List Node)
  | 0, _ => return []
  | _, [] => return []
  | n + 1, a :: l => do
    match ← quiet (do let x ← readNode c ar a; return (x, ← childAddrs c x)) with
    | none => reachableValid c ar n l
    | some x => return x.1 :: (← reachableValid c ar n (x.2 ++ l))

/-- The places of an arena's tiers that are live, being filled or awaiting reclaim (R426), gallery first: those of its blocks, the other
places of blocks that are moving, the places of the reclaim queue that no block stands in, and the blocks taken for requests. -/
def countPlaces (n : Nat) : J (Nat × Nat) := do
  let a ← jArena n
  let j := (← get).term.junction
  let mine := j.reclaim.filter fun r => r.arena == n
  let started := (j.reqs.filter fun r => r.arena == n).map fun r => (r.taken.length + r.places)
  let one := fun (m : Nat × Nat) (sump : Bool) => if sump then (m.1, m.2 + 1) else (m.1 + 1, m.2)
  let m ← (List.range a.nblk).foldlM (fun (m : Nat × Nat) p => do
    match ← quiet (readBlt 0 a p) with
    | none => return m
    | some e =>
      let old := (mine.filter fun r => r.pbn == p && (e.state != 4 || r.sump != e.sump)).map Reclaim.sump
      let m := old.foldl one m
      let m := if e.state = 2 then one m (!e.sump) else m
      return if e.state = 0 ∨ 4 < e.state then m else one m e.sump) (0, 0)
  return (m.1 + started.sum, m.2)

/-- Build the maps of an arena that goes into service: the free child-table slots, the free nodes, whose chain begins at the
pool's base, or past the root node if that lies there (log 13), and the counts of its places (R426). -/
def openArena (n : Nat) : J Unit := do
  let m ← countPlaces n
  jModArena n fun a => (a.put 10 24 24 m.2).put 10 0 24 m.1
  let a ← jArena n
  let xs ← reachableValid 0 a (2 * a.npn + 2) [a.root]
  let taken := xs.flatMap fun x => (List.range x.cap).map fun j => (x.cht - a.ctpb) / 8 + j
  let free := (List.range a.ctpn).filter fun i => !taken.contains i
  let head := if a.npn = 0 then 0 else if a.root = a.npb then (if a.npn = 1 then 0 else a.npb + 128) else a.npb
  let k ← countNodes 0 a.npn head
  jModArena n fun a => { (a.setCt free).put 6 24 24 k with nhead := head }

/-- A write of an arena descriptor (R415): `n` is the offset; the writer hears 0 for OK, 1 for ERROR. The loader's core 0 stands for
the Terminus die's own accesses, which name no core. -/
def State.writeArena (s : State) (off : Nat) (w : Word) : Option State :=
  if off < 0x40000 ∨ 0x40800 ≤ off ∨ off % 8 ≠ 0 then none
  else
    let n := (off - 0x40000) / 128
    let i := off % 128 / 8
    let a := s.arena n
    let keep := fun (m : Word) (old : Word) => (w &&& m) ||| (old &&& ~~~m)
    let old := (a.dws.toList[i]?).getD 0
    let set := fun (m : Word) => { a with dws := vset a.dws i (keep m old) }
    match i with
    | 0 =>
      if a.v then
        if w.getLsbD 63 then none else some (s.setArena n (a.put 0 63 1 0))
      else
        let b := set 0x8000FF1F00FFFFFF
        if !w.getLsbD 63 then some (s.setArena n b)
        else if !b.limits then none
        else
          let s1 := s.setArena n b
          match openArena n s1 with
          | .ok (_, t) => some ((t.dropItems fun i => i.what == .touchClamp && i.arg.n == n).after 0 2 .touchClamp { EvArg.ofCore 0 with n := n })
          | .error _ => none
    | 9 => some (s.setArena n (set 0x0000FFFFFFFFFFFF))
    | 1 | 2 | 3 | 4 | 5 | 7 => if a.v then none else some (s.setArena n (set 0x00FFFFFFFFFFFFFF))
    | 6 | 8 => if a.v then none else some (s.setArena n (set 0x0000000000FFFFFF))
    | 11 => if a.v then none else some (s.setArena n (set 0x0000000000FFFFFF))
    | _ => none

def execArenaDescriptorWrite (s : State) : Out :=
  match s.writeArena s.evt.n s.evt.dw with
  | some t => .next (t.answerHost s.evt.port 0)
  | none => .next (s.answerHost s.evt.port 1)

/-! ## The clamp (R420) -/

/-- Clamp one block's stamp: true if it was rewritten. -/
def clampBlock (c : CoreId) (a : Arena) (p : Nat) : J Bool := do
  let now := stampOf (← get).tsc
  let e ← readBlt c a p
  if e.state ≠ 0 ∧ 2 ^ 26 < ageOf now e.touch then
    writeBlt c a p { e with touch := (now + 2 ^ 28 - 2 ^ 26) % 2 ^ 28 }
    return true
  else return false

/-- The clamp of an arena's stamps (R420), when it goes into service and every 2^24 units from then on: each rewritten entry holds the control unit for 8 cycles (R430). A block whose
entry cannot be reached is passed over. -/
def execTouchClamp (s : State) : Out :=
  let n := s.evt.n % 16
  let a := s.arena n
  if !a.v then .next s
  else
    let r := (List.range a.nblk).foldl (fun (r : Nat × State) p =>
      match clampBlock 0 a p r.2 with
      | .ok (true, t) => (r.1 + 1, t)
      | .ok (false, t) => (r.1, t)
      | .error _ => r) (0, s)
    .next ((r.2.modTerm fun t =>
      { t with junction := { t.junction with ctlFree := max t.junction.ctlFree r.2.cycle + 8 * r.1 } }).after (nsCycles (2 ^ 40)) 2 .touchClamp s.evt)

end Sys2Proof.Machine
end

