-- ==== Sys2Proof/Machine/Control.lean ====
section
/-! DEFINITION. Branches, calls and loops (R105 to R108), and the ending, trapping and returning operations (R109 to
R113). -/

namespace Sys2Proof.Machine

open Sys2Proof

/-- The conditions of R108 on 64-bit patterns. -/
def condHolds (code : Nat) (x y : Word) : Bool :=
  match code with
  | 0 => x == y
  | 1 => x != y
  | 2 => x.slt y
  | 3 => !x.slt y
  | 4 => !y.slt x
  | 5 => y.slt x
  | 6 => x.ult y
  | 7 => !x.ult y
  | 8 => !y.ult x
  | 9 => y.ult x
  | _ => false

/-- The address after the bundle that begins at an address (R68, R89). -/
def bundleEnd (x : Core) (a : Nat) : Nat := a + 4 * (bundleWords (x.code.drop (a / 4))).length

/-- The link value (R107): on the primary the address after the delay bundle, on a scavenger the next operation's (R104).
The delay bundle is the next bundle to issue, the target of a pending branch included. -/
def State.link (s : State) : Word :=
  match s.iss.thr with
  | .scav _ => s.iss.next
  | .prim =>
    let p := s.prim s.iss.core
    let d := match p.br.bt1 with | some t => t | none => s.iss.next
    BitVec.ofNat 64 (bundleEnd (s.core s.iss.core) d.toNat)

/-- A relative target: A + 4 × disp (R87). -/
def State.relTarget (s : State) (disp : Word) : Word := s.iss.waddr + (disp <<< 2)

/-- A taken branch (R28): the first one in slot order stands. -/
def State.take (s : State) (op : Op) (target : Word) : State :=
  { s with iss := { s.iss with taken := some (target, op.esz.getLsbD 0), branchAt := s.iss.waddr } }

/-- Whether an earlier branch slot of the bundle was taken, so that a taken branch has no effect (R28). -/
def State.beaten (s : State) : Bool := s.iss.taken.isSome

/-- Branch to a relative target (R106). -/
def State.branchRel (s : State) (op : Op) (disp : Word) (taken : Bool) : State :=
  if taken && !s.beaten then s.take op (s.relTarget disp) else s

/-- Branch to a register target (R106), with the link written before if there is one: a target whose bits [1:0] are not
zero raises `ALIGN` and neither the link nor the branch is performed. -/
def State.branchInd (s : State) (op : Op) (links : Bool) : State :=
  let t := s.srcS op.a op.la
  if s.beaten then t.2
  else if t.1.extractLsb' 0 2 != 0#2 then (State.oweBack s t.2).raise codeALIGN 0 t.1 0
  else
    let s1 := if links then t.2.putS op 1 0 s.link else t.2
    s1.take op t.1

def execBr (op : Op) (s : State) : Out := perform op s fun s => s.branchRel op (Op.imm24 op) true

/-- Taken when any of the 512 bits of the mask is set (R106); a mask field that names a latch reads bits [63:0] (R24). -/
def execBrp (op : Op) (s : State) : Out :=
  perform op s fun s =>
    let r := (s.prim s.iss.core).regs
    s.branchRel op (Op.imm24 op) (if op.la then (r.rdLatch op.a.toNat).setWidth 64 != 0#64 else r.rdK op.a != 0)

/-- The counter is written whether or not the branch is taken; a taken branch beaten by `B0` has no effect (R28, R106). -/
def execLoop (op : Op) (s : State) : Out :=
  perform op s fun s =>
    let x := s.srcS op.a op.la
    let t := x.1 - 1
    if t != 0 && s.beaten then x.2
    else (x.2.putS op 1 0 t).branchRel op (Op.imm24 op) (t != 0)

def execBri (op : Op) (s : State) : Out := perform op s fun s => s.branchInd op false

def execCall (op : Op) (s : State) : Out :=
  perform op s fun s => if s.beaten then s else (s.putS op 1 0 s.link).branchRel op (Op.imm24 op) true

def execCalli (op : Op) (s : State) : Out := perform op s fun s => s.branchInd op true

def execRet (op : Op) (s : State) : Out := perform op s fun s => s.branchInd op false

/-- The condition code stands in `dst` (R105). -/
def execBrc (op : Op) (s : State) : Out :=
  perform op s fun s =>
    let x := s.srcAB op
    x.2.2.branchRel op (op.x12.signExtend 64) (condHolds op.dst.toNat x.1 x.2.1)

/-- The body run ends after this bundle (R110). -/
def execTend (op : Op) (s : State) : Out :=
  perform op s fun s => { s with iss := { s.iss with ended := true } }

/-- `TRAPI` with the code of `x12` (R111). -/
def execTrap (op : Op) (s : State) : Out :=
  perform op s fun s => s.raise codeTRAPI 0 (op.x12.setWidth 64) 0

/-- `SYSC` with the code of `x12` (R111). -/
def execSys (op : Op) (s : State) : Out :=
  perform op s fun s => s.raise codeSYSC 0 (op.x12.setWidth 64) 0

/-- No effect (R112). -/
def execNopb (op : Op) (s : State) : Out := perform op s fun s => s

/-- The return from a handler (R113): `PROT` outside a handler of the supervisor's own primary. -/
def execEret (op : Op) (s : State) : Out :=
  perform op s fun s =>
    if s.privileged && (s.core s.iss.core).ctl.svAct then { s with iss := { s.iss with eret := true } }
    else s.raise codePROT 6 0 0

end Sys2Proof.Machine
end

