-- ==== Sys2Proof/Machine/Junction.lean ====
section
/-! DEFINITION. The pager requests at the Junction (R251 to R262, R424 to R432): what each names and needs, its completion point,
its copies, waits and errors; `XKVG` (R225, R258) and the low-water mark (R429). -/

namespace Sys2Proof.Machine

open Sys2Proof

/-! ## What a request names and needs -/

/-- The needs of a request: its arena, its control time (R430), the blocks it takes, the sources of its copies-on-write, the blocks it
moves and whether they go to the sump, and whether the tree pools are short (R427). -/
structure Plan where
  arena : Nat
  control : Nat
  alloc : Nat
  cow : List Nat
  moves : List Nat
  toSump : Bool
  short : Bool
  deriving DecidableEq, Repr

def Plan.simple (arena control : Nat) : Plan := ⟨arena, control, 0, [], [], false, false⟩

/-- Wait (R252, R425). -/
def jWait {α : Type} : J α := fun _ => .error .wait

/-- A named block whose copy is in progress makes the request wait, unless the copy is its own (R252). -/
def settled (own : List Nat) (p : Nat) (e : Blt) : J Unit :=
  if e.state = 1 ∨ own.contains p then return () else jWait

/-- A place that awaits reclaim makes a move into it wait (R425). -/
def placeFree (n p : Nat) (sump : Bool) : J Unit := do
  if (← get).term.junction.reclaim.any fun e => e.arena == n && e.pbn == p && e.sump == sump then jWait else return ()

/-- The tokens of a request, read when it started (R254). -/
def Pend.tokens (p : Pend) : List Nat := (List.range (p.data.length / 4)).map fun i => bytesToNat ((p.data.drop (4 * i)).take 4)

/-- How many leading tokens of a node's chunk agree (R255). -/
def agree : List Nat → List Nat → Nat
  | x :: xs, y :: ys => if x = y then agree xs ys + 1 else 0
  | _, _ => 0

/-- Of two children, whether the second is matched before the first: more agreeing tokens, then the larger fill (R255). -/
def betterChild (toks : List Nat) (a b : Node) : Bool :=
  let j := fun (x : Node) => agree (x.toks.take x.fill) toks
  decide (j a < j b) || (j a == j b && decide (a.fill < b.fill))

/-- The walk of `KVMATCH` (R255): blocks shared, tokens matched, control time. -/
def matchWalk (c : CoreId) (q : Sqd) (ar : Arena) : Nat → Node → List Nat → List Nat → Nat → Nat → J (List Nat × Nat × Nat)
  | 0, _, _, used, i, t => return (used.reverse, i, t)
  | n + 1, node, toks, used, i, t => do
    let kids ← children c ar node
    let t := if kids.isEmpty then t else t + 24 + (kids.length - 8)
    match kids with
    | [] => return (used.reverse, i, t)
    | k :: ks =>
      let best := ks.foldl (fun a b => if betterChild toks a b then b else a) k
      let j := agree (best.toks.take best.fill) toks
      if j = 0 then return (used.reverse, i, t)
      else
        let e ← namedBlt c ar best.pbn best.addr
        if q.blocks + used.length = q.cap then return (used.reverse, i, t)
        else
          settled [] best.pbn e
          if e.refs = 65535 then return (used.reverse, i, t)
          else if j < 16 then return ((best.pbn :: used).reverse, i + j, t)
          else matchWalk c q ar n best (toks.drop j) (best.pbn :: used) (i + j) t

/-- The insertion of `KVINS` (R256): nodes made and levels descended, or none when a pool is empty. A child found by its block whose own
chunk is shorter than 16 ends the walk: it is a leaf and never gains a child (R421; log 107). -/
def insertWalk (c : CoreId) (q : Sqd) (ar : Arena) : Nat → Node → List Nat → Nat → Nat → Nat → J (Option (Nat × Nat))
  | 0, _, _, _, made, lv => return some (made, lv)
  | n + 1, node, toks, b, made, lv => do
    if toks = [] then return some (made, lv)
    else
      let chunk := toks.take 16
      let bt ← readBt c q b
      let e ← namedBlt c ar bt.2 q.addr
      settled [] bt.2 e
      let kids ← children c ar node
      match (kids.find? fun k => k.pbn == bt.2).orElse fun _ => kids.find? fun k => k.fill == chunk.length && k.toks == chunk with
      | some k =>
        if chunk.length < 16 ∨ k.fill < 16 then return some (made, lv + 1)
        else insertWalk c q ar n k (toks.drop 16) (b + 1) made (lv + 1)
      | none =>
        if e.refs = 65535 then jBad 0 q.addr bt.2
        else
          match ← takeNode c q.arena with
          | none => return none
          | some a =>
            let x : Node := { addr := a, v := true, parent := node.addr, fill := chunk.length, pbn := bt.2, cht := 0, cap := 0, n := 0, toks := chunk }
            writeNode c x
            jWrite c (a + 0x60) 32 0
            if ← addChild c q.arena node a then
              writeBlt c ar bt.2 { e with refs := e.refs + 1 }
              if chunk.length < 16 then return some (made + 1, lv + 1)
              else insertWalk c q ar n x (toks.drop 16) (b + 1) (made + 1) (lv + 1)
            else return none

/-- Run a transaction for its answer alone. -/
def dryRun {α : Type} (f : J α) : J α := fun s =>
  match f s with
  | .ok r => .ok (r.1, s)
  | .error e => .error e

/-- The block indices that a request's new slots touch (R257). -/
def slotBlocks (t n : Nat) : List Nat := if n = 0 then [] else (List.range ((t + n - 1) / 16 + 1 - t / 16)).map fun i => t / 16 + i

/-- The blocks that a `KVAPP` takes, copies and promotes (R424). -/
def planAppend (c : CoreId) (q : Sqd) (ar : Arena) (own : List Nat) (n : Nat) : J Plan := do
  if 16 * q.cap < q.tokens + n then jBad 0 q.addr noBlock
  else (slotBlocks q.tokens n).foldlM (fun (pl : Plan) i => do
    if q.blocks ≤ i then return { pl with alloc := pl.alloc + 1 }
    else
      let bt ← readBt c q i
      let e ← namedBlt c ar bt.2 q.addr
      settled own bt.2 e
      let pl := if e.sump then { pl with moves := pl.moves ++ [bt.2] } else pl
      if e.sump then placeFree q.arena bt.2 false
      return if 1 < e.refs then { pl with alloc := pl.alloc + 1, cow := pl.cow ++ [bt.2] } else pl) (Plan.simple q.arena 0)

/-- The range of a `KVPIN` (R260). -/
def Pend.first (p : Pend) : Nat := Word.bits p.b 0 24
def Pend.count (p : Pend) : Nat := Word.bits p.b 24 24

/-- The blocks that a `KVPIN` promotes (R260). -/
def planPin (c : CoreId) (q : Sqd) (ar : Arena) (own : List Nat) (p : Pend) : J Plan := do
  if q.blocks < p.first + p.count then jBad 0 q.addr noBlock
  else ((List.range p.count).map fun i => p.first + i).foldlM (fun (pl : Plan) i => do
    let bt ← readBt c q i
    let e ← namedBlt c ar bt.2 q.addr
    settled own bt.2 e
    if !p.x12.getLsbD 0 && !bt.1 && e.sump && !pl.moves.contains bt.2 then
      placeFree q.arena bt.2 false
      return { pl with moves := pl.moves ++ [bt.2] }
    else return pl) (Plan.simple q.arena (4 * p.count))

/-- Whether a sweep takes one block before another: by age, then by lower number (R262, R420). -/
def sweepBefore (demote : Bool) (a b : Nat × Nat) : Bool :=
  (if demote then decide (b.2 < a.2) else decide (a.2 < b.2)) || (a.2 == b.2 && decide (a.1 < b.1))

/-- Insert by an order. -/
def insertBy {α : Type} (before : α → α → Bool) (x : α) : List α → List α
  | [] => [x]
  | y :: l => if before x y then x :: y :: l else y :: insertBy before x l

/-- The blocks that a demotion or promotion moves (R261, R262). -/
def planMove (c : CoreId) (p : Pend) (inService : BitVec 16) (own : List Nat) : J Plan := do
  let n := Word.bits p.a 24 4
  let x := Word.bits p.a 0 24
  let ar ← jArena n
  let demote := p.kind == .kvdem
  let pl : Plan := { Plan.simple n 0 with toSump := demote }
  let cap := if demote then ar.scap else ar.gcap
  if !inService.getLsbD n then jBad 1 0 noBlock
  else if !p.x12.getLsbD 0 then
    if ar.nblk ≤ x then jBad 0 0 x
    else
      let e ← readBlt c ar x
      if e.state = 0 ∨ 4 ≤ e.state then jBad 0 0 x
      else
        settled own x e
        if own.contains x then return { pl with moves := [x] }
        else if e.sump == demote then return pl
        else if demote && decide (0 < e.pins) then jBad 0 0 x
        else
          placeFree n x demote
          if cap ≤ ar.used demote then jBad 0 0 x else return { pl with moves := [x] }
  else if own ≠ [] then return { pl with moves := own }
  else
    let now := (← get).tsc
    let th := ageOf (stampOf now) (stampOf p.b)
    let cs ← (List.range ar.nblk).foldlM (fun (l : List (Nat × Nat)) b => do
      let e ← readBlt c ar b
      let age := ageOf (stampOf now) e.touch
      return if e.state = 1 ∧ e.sump = !demote ∧ (if demote then e.pins = 0 ∧ th < age else age ≤ th) then
        insertBy (sweepBefore demote) (b, age) l else l) []
    let chosen ← ((cs.map Prod.fst).take x).foldlM (fun (l : List Nat × Bool) b => do
      if l.2 then return l
      else
        placeFree n b demote
        return if cap ≤ ar.used demote + l.1.length then (l.1, true) else (l.1 ++ [b], false)) ([], false)
    return { pl with moves := chosen.1 }

/-- The needs of a request (R424 step 1). -/
def planOf (c : CoreId) (p : Pend) (r : JReq) : J Plan := do
  match p.kind with
  | .kvdem | .kvprom => planMove c p r.inService r.moving
  | .kvapp => if p.b = 0 then return Plan.simple 0 0 else
      let q ← validSqd c r.inService p.a.toNat
      planAppend c q.1 q.2 (r.moving ++ r.cow) p.b.toNat
  | _ =>
    let q ← validSqd c r.inService p.a.toNat
    match p.kind with
    | .kvmatch =>
      if q.1.tokens ≠ 0 then jBad 0 p.a.toNat noBlock
      else
        let w ← matchWalk c q.1 q.2 (p.tokens.length + 1) (← readNode c q.2 q.2.root) p.tokens [] 0 0
        return Plan.simple q.1.arena w.2.2
    | .kvins =>
      if q.1.tokens < p.tokens.length then jBad 0 p.a.toNat noBlock
      else
        let w ← dryRun do insertWalk c q.1 q.2 (p.tokens.length + 1) (← readNode c q.2 q.2.root) p.tokens 0 0 0
        match w with
        | some w => return Plan.simple q.1.arena (24 * w.2 + 24 * w.1)
        | none => return { Plan.simple q.1.arena 0 with short := true }
    | .kvrel =>
      (List.range q.1.blocks).forM fun i => do
        let bt ← readBt c q.1 i
        settled [] bt.2 (← namedBlt c q.2 bt.2 q.1.addr)
      return Plan.simple q.1.arena (4 * q.1.blocks)
    | _ => planPin c q.1 q.2 r.moving p

/-! ## Completion points (R252) -/

/-- A block's move switches (R423, R425): the old place awaits reclaim. -/
def switchBlock (c : CoreId) (n p : Nat) : J Unit := do
  let a ← jArena n
  let e ← readBlt c a p
  writeBlt c a p { e with state := 1, sump := !e.sump }
  addReclaim n p e.sump

/-- The answer of a request as bytes. -/
def answerDw (v : Nat) : List Byte := natToBytes 8 v

/-- `KVAPP` (R257, R424 step 4), as its plan has laid it out. -/
def completeAppend (c : CoreId) (q : Sqd) (r : JReq) (n : Nat) : J (List Byte) := do
  r.moving.forM fun p => switchBlock c q.arena p
  let _ ← (slotBlocks q.tokens n).foldlM (fun (fresh : List Nat) i => do
    let ar ← jArena q.arena
    let p2 := fresh.headD noBlock
    let blank : Blt := { refs := 1, pins := 0, state := 1, sump := false, touch := 0 }
    if q.blocks ≤ i then
      writeBt c q i false p2
      writeBlt c ar p2 blank
      return fresh.drop 1
    else
      let bt ← readBt c q i
      let e ← readBlt c ar bt.2
      if r.cow.contains bt.2 then
        writeBt c q i bt.1 p2
        writeBlt c ar p2 { blank with pins := if bt.1 then 1 else 0 }
        writeBlt c ar bt.2 { e with state := 1, refs := e.refs - 1, pins := if bt.1 then e.pins - 1 else e.pins }
        return fresh.drop 1
      else return fresh) r.taken
  let ar ← jArena q.arena
  let slots ← (List.range n).mapM fun i => do
    let pos := q.tokens + i
    let bt ← readBt c q (pos / 16)
    touchBlock c ar bt.2
    return ar.place false bt.2 + pos % 16 * 2 ^ (ar.slg - 4)
  writeCounts c q (max q.blocks ((q.tokens + n - 1) / 16 + 1)) (q.tokens + n)
  return slots.flatMap answerDw

/-- `KVPIN` (R260). -/
def completePin (c : CoreId) (q : Sqd) (r : JReq) (p : Pend) : J (List Byte) := do
  r.moving.forM fun b => switchBlock c q.arena b
  let ar ← jArena q.arena
  ((List.range p.count).map fun i => p.first + i).forM fun i => do
    let bt ← readBt c q i
    let e ← namedBlt c ar bt.2 q.addr
    settled r.moving bt.2 e
    if p.x12.getLsbD 0 then
      if bt.1 then
        writeBlt c ar bt.2 { e with pins := e.pins - 1 }
        writeBt c q i false bt.2
    else if !bt.1 then
      if e.pins = 65535 then jBad 0 q.addr bt.2
      else
        writeBlt c ar bt.2 { e with pins := e.pins + 1 }
        writeBt c q i true bt.2
  return []

/-- `KVREL` (R259). -/
def completeRelease (c : CoreId) (q : Sqd) (ar : Arena) : J (List Byte) := do
  (List.range q.blocks).forM fun i => do
    let bt ← readBt c q i
    settled [] bt.2 (← namedBlt c ar bt.2 q.addr)
    if bt.1 then modBlt c ar bt.2 fun e => { e with pins := e.pins - 1 }
    dropRef c q.arena bt.2 q.addr
  writeCounts c q 0 0
  return []

/-- `KVMATCH` (R255). -/
def completeMatch (c : CoreId) (q : Sqd) (ar : Arena) (p : Pend) : J (List Byte) := do
  let w ← matchWalk c q ar (p.tokens.length + 1) (← readNode c ar ar.root) p.tokens [] 0 0
  w.1.zipIdx.forM fun b => do
    writeBt c q (q.blocks + b.2) false b.1
    modBlt c ar b.1 fun e => { e with refs := e.refs + 1 }
    touchBlock c ar b.1
  writeCounts c q (q.blocks + w.1.length) w.2.1
  return answerDw (w.1.length * 2 ^ 32 + w.2.1)

/-- Whether a request still needs what it has begun. -/
def Plan.same (pl : Plan) (r : JReq) : Bool :=
  !pl.short && pl.alloc == r.taken.length && pl.cow == r.cow && pl.moves == r.moving &&
    (pl.arena == r.arena || (r.taken.isEmpty && r.cow.isEmpty && r.moving.isEmpty))

/-- The completion point of a request: all of its changes, and its answer (R252), or none for one that requests completed meanwhile have left
with other needs, and for a `KVINS` that finds a tree pool empty. It waits if the reclaim queue would overflow (R428). -/
def completeOf (c : CoreId) (p : Pend) (r : JReq) : J (Option (List Byte)) := do
  let pl ← planOf c p r
  if !pl.same r then return none
  let ans ← (match p.kind with
    | .kvdem | .kvprom => do
      if !r.inService.getLsbD r.arena then jBad 1 0 noBlock
      r.moving.forM fun b => switchBlock c r.arena b
      return some (answerDw r.moving.length)
    | .kvapp => if p.b = 0 then return some [] else do
      let q ← validSqd c r.inService p.a.toNat
      return some (← completeAppend c q.1 r p.b.toNat)
    | _ => do
      let q ← validSqd c r.inService p.a.toNat
      match p.kind with
      | .kvmatch => return some (← completeMatch c q.1 q.2 p)
      | .kvins =>
        return (← insertWalk c q.1 q.2 (p.tokens.length + 1) (← readNode c q.2 q.2.root) p.tokens 0 0 0).map fun w => answerDw w.1
      | .kvrel => return some (← completeRelease c q.1 q.2)
      | _ => return some (← completePin c q.1 r p))
  if 1024 < (← get).term.junction.reclaim.length then jWait else return ans

/-! ## The Junction's requests -/

def State.modJunction (s : State) (f : Junction → Junction) : State := s.modTerm fun t => { t with junction := f t.junction }
def State.jreq (s : State) (c : CoreId) (id : Nat) : Option JReq := s.term.junction.reqs.find? fun r => r.core == c && r.id == id
def State.setReq (s : State) (r : JReq) : State := s.modJunction fun j =>
  { j with reqs := j.reqs.map fun q => if q.core == r.core && q.id == r.id then r else q }

/-- Requests that wait for the control unit, for a block or for reclaim are tried again, in the order of their arrival (R252, R430). -/
def State.kickWaiting (s : State) : State :=
  s.term.junction.reqs.foldl (fun s r =>
    if r.phase = .waiting then s.after 0 2 .pagerRequestArrival { argId r.core r.id with k := 3 } else s) s

/-- The same, and those that wait for a copier, or at their completion points. -/
def State.kickJunction (s : State) : State :=
  (s.term.junction.reqs.foldl (fun s r =>
    match r.phase with
    | .done => s.after 0 2 .junctionCompletionPoint (argId r.core r.id)
    | .control => if r.copies.isEmpty || decide (s.cycle < r.ready) then s
      else s.after 0 2 .blockCopyDone { argId r.core r.id with n := 1 }
    | .waiting | .copying | .undoing _ _ _ _ => s) s).kickWaiting

/-- Whether the control unit works on a request until its completion point: one without copies (R430). -/
def Junction.inControl (j : Junction) : Bool := j.reqs.any fun r => r.phase == .control && r.copies.isEmpty

/-- A request leaves the Junction; its answer travels to its requester (R400). -/
def State.leaveJunction (s : State) (r : JReq) (bad : Bool) (ans : List Byte) : State :=
  let s := s.modJunction fun j => { j with reqs := j.reqs.filter fun q => !(q.core == r.core && q.id == r.id) }
  let s := s.modPend r.core r.id fun p => { p with performed := true, err := bad, data := ans }
  (s.completeIn r.core r.id (s.term.junction.walked + s.toTerminus r.core + 1)).kickJunction

/-- The minor of a request (R432). -/
def PKind.minor : PKind → Nat
  | .kvmatch => 0
  | .kvins => 1
  | .kvapp => 2
  | .kvrel => 3
  | .kvpin => 4
  | .kvdem => 5
  | _ => 6

/-- An ARENA record (R432). -/
def arenaRecord (src arena req cause addr pbn : Nat) (now : Word) : Rec64 :=
  #v[BitVec.ofNat 64 (src * 2 ^ 32 + arena * 2 ^ 24 + req * 2 ^ 16 + cause * 2 ^ 8 + 0x22), BitVec.ofNat 64 (addr % 2 ^ 56),
    BitVec.ofNat 64 pbn, now, 0, 0, 0, 0]

/-- The steps that undo what a request has begun (R423, R424): taken blocks return to the free list, places are given up, copies-on-write and
moves end. -/
def undoSteps (c : CoreId) (r : JReq) (toSump : Bool) : List (J Unit) :=
  let live := fun p => (do modBlt c (← jArena r.arena) p fun e => { e with state := 1 } : J Unit)
  [untake c r.arena r.taken, jModArena r.arena fun a => a.subUsed false r.places] ++ r.cow.map live ++
    r.moving.flatMap fun p => [jModArena r.arena fun a => a.subUsed toSump 1, live p]

/-- What a request has begun is undone at once; a step that meets an error is left out (log 125), and one that faults waits for its wake. -/
def undoReq (c : CoreId) (r : JReq) (toSump : Bool) : J Unit :=
  (undoSteps c r toSump).forM fun f s =>
    match f s with
    | .error (.fault h k l a w) => .error (.fault h k l a w)
    | .error _ => .ok ((), s)
    | x => x

/-- The arena that a record names. -/
def State.arenaOfReq (s : State) (c : CoreId) (p : Pend) (r : JReq) : Nat :=
  match p.kind with
  | .kvdem | .kvprom => Word.bits p.a 24 4
  | _ => match readSqd c p.a.toNat s with | .ok q => q.1.arena | .error _ => r.arena

/-- Requests that arrived after one find an arena out of service (R432). -/
def outOfService (r : JReq) (n : Nat) : List JReq → List JReq
  | [] => []
  | q :: l =>
    if q.core == r.core && q.id == r.id then q :: l.map fun x => { x with inService := x.inService &&& ~~~(1#16 <<< n) }
    else q :: outOfService r n l

/-- The Junction's request waits for a wake (R332): one notice per key, which enters the mesh at the bridge of the home's die. -/
def State.junctionNotice (s : State) (r : JReq) (home kind level a walked : Nat) : State :=
  let key := faultKey a
  let known := (s.term.waitWake.any fun w => w.1 == key) || s.term.hostWait.any fun w => w.1 == key
  let s := s.modTerm fun t => { t with waitWake := t.waitWake ++ [(key, r.core, r.id)] }
  if known then s
  else
    let d := dieOf (heardBy r.core.val home)
    let xy := bridgeXY d
    let n : Notice := { key := key, src := if home = 0x3FF then BitVec.ofNat 10 r.core.val else 0x3FF, home := BitVec.ofNat 10 home,
                        level := BitVec.ofNat 3 level, kind := BitVec.ofNat 3 kind, addr := BitVec.ofNat 56 a, stamp := s.tsc }
    s.after (walked + 20) 2 .faultNotice { EvArg.ofCore r.core with load := .notice ⟨xy.1, xy.2⟩ 5 n }

/-- A request has been undone: it ends ERROR (R431, R432), with an ARENA record unless the cause is 0. -/
def State.endReq (s : State) (r : JReq) (p : Pend) (cause addr pbn : Nat) : State :=
  let c := r.core
  let n := s.arenaOfReq c p r
  let addr := if addr = 0 && p.kind != .kvdem && p.kind != .kvprom then p.a.toNat else addr
  let s := if cause = 0 then s
    else s.after (s.toTerminus (supervisorOf (dieOf c))) 2 .ringRecordWrite { EvArg.ofCore (supervisorOf (dieOf c)) with
      load := .record (arenaRecord c.val n p.kind.minor cause addr pbn s.tsc) }
  let s := if cause = 2 ∨ cause = 3 then
      (s.setArena n ((s.arena n).put 0 63 1 0)).modJunction fun j => { j with reqs := outOfService r n j.reqs }
    else s
  s.leaveJunction r true []

/-- A request is undone, and then ends ERROR, or with `again` is planned anew. If a page of what it must undo is not there, it waits for its
wake first; with `now`, the wake having refused, that step is left out (log 125). -/
def State.undoThen (s : State) (r : JReq) (p : Pend) (again : Bool) (cause addr pbn : Nat) (now : Bool) : State :=
  let c := r.core
  let toSump := p.kind == .kvdem
  let left := { r with taken := [], places := 0, cow := [], moving := [], copies := [], chunk := 0, phase := JPhase.waiting }
  let done := fun (s : State) => if again then (s.setReq left).kickWaiting else s.endReq left p cause addr pbn
  match s.runJ (undoReq c r toSump) with
  | .ok (_, s) => done s
  | .error (.fault h k l a w) =>
    if now then
      done ((undoSteps c r toSump).foldl (fun s f => match s.runJ f with | .ok x => x.2 | .error _ => s) s)
    else (s.setReq { r with phase := .undoing again cause addr pbn }).junctionNotice r h k l a w
  | .error _ => done s

/-- A request ends ERROR, once what it has begun is undone. -/
def State.failReq (s : State) (r : JReq) (p : Pend) (cause addr pbn : Nat) : State := s.undoThen r p false cause addr pbn false

/-- What stops a transaction: it waits, waits for a wake, or ends ERROR. -/
def State.stopReq (s : State) (r : JReq) (p : Pend) (e : JErr) : State :=
  match e with
  | .wait => s
  | .bad cause addr pbn => s.failReq r p cause addr pbn
  | .fault h k l a w => s.junctionNotice r h k l a w
  | .refused h l a => (s.sendRefused r.core.val h l a).failReq r p 0 a noBlock

/-! ## Allocation and eviction (R424, R426, R427) -/

/-- Take blocks and gallery places for a request, as many as there are: the blocks and how many places (R426, R427). -/
def takeAll (c : CoreId) (n alloc places : Nat) : Nat → List Nat → Nat → J (List Nat × Nat)
  | 0, ts, k => return (ts, k)
  | f + 1, ts, k => do
    let a ← jArena n
    if a.gcap ≤ a.gused then return (ts, k)
    else if ts.length < alloc ∧ a.freehd < a.nblk then
      let p ← takeFree c n
      takeAll c n alloc places f (ts ++ [p]) k
    else if k < places then
      jModArena n fun a => a.addUsed false 1
      takeAll c n alloc places f ts (k + 1)
    else return (ts, k)

/-- Whether reclaim will free a gallery block or place of an arena (R427). -/
def State.reclaimHelps (s : State) (c : CoreId) (n : Nat) : Bool :=
  s.term.junction.reclaim.any fun e => e.arena == n &&
    (!e.sump || (match readBlt c (s.arena n) e.pbn s with | .ok r => r.1.state == 4 | .error _ => false))

/-- Evict up to a number of leaves, as long as the reclaim queue has room (R427, R428): how many it still lacks, and whether leaves that
qualify are left for want of room. -/
def evict (c : CoreId) (n : Nat) : Nat → J (Nat × Bool)
  | 0 => return (0, false)
  | k + 1 => do
    match ← evictable c n with
    | none => return (k + 1, false)
    | some _ =>
      if 1024 ≤ (← get).term.junction.reclaim.length then return (k + 1, true)
      else
        let _ ← evictOne c n
        evict c n k

/-- A request has what it needs: its sources are marked, its copies laid out, and its control time runs, with that of the walks which its
plan has met (R330, R424 step 2, R430). -/
def State.beginReq (s : State) (r : JReq) (p : Pend) (pl : Plan) : State :=
  let c := r.core
  let f : J Unit := do
    pl.moves.forM fun b => do modBlt c (← jArena pl.arena) b fun e => { e with state := 2 }
    pl.cow.forM fun b => do modBlt c (← jArena pl.arena) b fun e => { e with state := if e.state = 2 then 2 else 3 }
    if p.kind == .kvdem || p.kind == .kvprom then jModArena pl.arena fun a => a.addUsed pl.toSump pl.moves.length
  let before := s.term.junction.walked
  match s.runJ f with
  | .error e => s.stopReq r p e
  | .ok (_, s) =>
    let control := pl.control + before + s.term.junction.walked
    let a := s.arena pl.arena
    let mv := pl.moves.map fun b => (a.place (!pl.toSump) b, a.place pl.toSump b, a.blockLen)
    let cw := (pl.cow.zip r.taken).map fun q => (a.place false q.1, a.place false q.2, a.blockLen)
    let start := max s.cycle s.term.junction.ctlFree
    let s := s.modJunction fun j => { j with ctlFree := start + control }
    let r := { r with phase := .control, arena := pl.arena, moving := pl.moves, cow := pl.cow, copies := mv ++ cw, places := 0
                      ready := start + control }
    let s := s.setReq r
    if r.copies.isEmpty then s.after (start + control - s.cycle) 2 .junctionCompletionPoint (argId c r.id)
    else s.after (start + control - s.cycle) 2 .blockCopyDone { argId c r.id with n := 1 }

/-- What a new plan no longer needs goes back (R424, R426): blocks, and gallery places. -/
def giveUp (c : CoreId) (n alloc wants : Nat) (r : JReq) : J (List Nat × Nat) := do
  untake c n (r.taken.drop alloc)
  jModArena n fun a => a.subUsed false (r.places - wants)
  return (r.taken.take alloc, min r.places wants)

/-- A request that lacks blocks or places (R427): it evicts, and waits for what is to be reclaimed, with a bound that begins once; with
none in sight it fails. A full reclaim queue puts evictions off (R428). -/
def State.lackReq (s : State) (r : JReq) (p : Pend) (n lacks : Nat) : State :=
  let c := r.core
  let wants := if r.evictUntil.isNone then lacks else r.toEvict
  match evict c n wants s with
  | .error e => s.stopReq r p e
  | .ok ((left, full), s) =>
    let r := { r with toEvict := if full then left else 0 }
    let expired := match r.evictUntil with | some t => decide (t ≤ s.cycle) | none => false
    if expired || (r.evictUntil.isNone && left = wants && !full && !s.reclaimHelps c n) then s.failReq r p 0 0 noBlock
    else if r.evictUntil.isSome then s.setReq r
    else (s.setReq { r with evictUntil := some (s.cycle + 65536) }).after 65536 2 .evictionWaitExpiry (argId c r.id)

/-- Serve a request that waits: plan it, find what it needs, evict and wait if it lacks blocks, begin it (R424, R427). The new blocks
of a copy-on-write stand in `taken` at the place of their index. -/
def State.serveReq (s : State) (p : Pend) : Nat → JReq → State
  | 0, _ => s
  | fuel + 1, r =>
    let c := r.core
    match s.runJ (planOf c p r) with
    | .error e => s.stopReq r p e
    | .ok (pl, s) =>
      if pl.short then
        match evict c pl.arena 1 s with
        | .error e => s.stopReq r p e
        | .ok ((0, _), t) => State.serveReq t p fuel r
        | .ok ((_, full), t) => if full then t else t.failReq r p 0 0 noBlock
      else
        let wants := if p.kind == .kvapp || p.kind == .kvpin then pl.moves.length else 0
        match (do
          let g ← giveUp c pl.arena pl.alloc wants r
          takeAll c pl.arena pl.alloc wants (pl.alloc + wants + 1) g.1 g.2 : J (List Nat × Nat)) s with
        | .error e => s.stopReq r p e
        | .ok ((ts, k), s) =>
          let r := { r with taken := ts, places := k, arena := pl.arena }
          let s := s.setReq r
          let lacks := (pl.alloc - ts.length) + (wants - k)
          if lacks = 0 then s.beginReq r p pl else s.lackReq r p pl.arena lacks

/-- Which arenas are in service. -/
def State.arenasOpen (s : State) : BitVec 16 :=
  (List.range 16).foldl (fun m i => if (s.arena i).v then m ||| (1#16 <<< i) else m) 0

/-! ## The events of a request -/

/-- While entries wait for reclaim, the reports of the cycles that are multiples of 1,024 are followed (R429; log 106). -/
def State.watchReclaim (s : State) : State :=
  if s.term.junction.reclaim.isEmpty || s.agenda.any (fun i => i.what == .xkvgLowWaterReport && i.arg.k == 1) then s
  else s.after (1024 - s.cycle % 1024) 2 .xkvgLowWaterReport { EvArg.ofCore 0 with k := 1 }

/-- A request is served when the control unit is free (R430): otherwise it waits until then, or for the completion point of the one it
works on. -/
def State.whenFree (s : State) (p : Pend) (r : JReq) : State :=
  let j := s.term.junction
  if j.inControl then s
  else if s.cycle < j.ctlFree then
    s.after (j.ctlFree - s.cycle) 2 .pagerRequestArrival { argId r.core r.id with k := 3 }
  else (s.serveReq p ((s.arena (s.arenaOfReq r.core p r)).npn + 2) r).watchReclaim

/-- A pager request reaches the Junction and waits its turn, is sent on by a wake (`k` = 1 retry, 2 refuse), or is tried again (3) (R252,
R334, R430). -/
def execPagerRequestArrival (s : State) : Out :=
  let c := s.evt.core
  match (s.core c).pend s.evt.id with
  | none => .next s
  | some p =>
    match s.jreq c p.id with
    | none =>
      .next (s.modJunction (fun j => { j with reqs := j.reqs ++
        [{ core := c, id := p.id, phase := .waiting, inService := s.arenasOpen, arena := 0, moving := [], cow := [],
           copies := [], taken := [], places := 0, chunk := 0, evictUntil := none, toEvict := 0, ready := 0 }] })).kickWaiting
    | some r =>
      let s := if s.evt.k = 1 then s.modPend c p.id fun q => { q with retried := true } else s
      match s.evt.k, r.phase with
      | k, .undoing again cause addr pbn => .next (s.undoThen r p again cause addr pbn (k == 2))
      | 2, _ =>
        .next ((s.modJunction fun j => { j with copiers := if r.phase = .copying then j.copiers - 1 else j.copiers }).failReq r p 0 0 noBlock)
      | _, ph => match ph with
        | .waiting => .next (s.whenFree p r)
        | .copying => .next (if s.evt.k = 1 then s.after 0 2 .blockCopyDone (argId c p.id) else s)
        | .done => .next (s.after 0 2 .junctionCompletionPoint (argId c p.id))
        | .control | .undoing _ _ _ _ => .next s

/-- The wait for reclaim ends (R427): the request takes what is there or fails, when the control unit is free. -/
def execEvictionWaitExpiry (s : State) : Out :=
  let c := s.evt.core
  match (s.core c).pend s.evt.id, s.jreq c s.evt.id with
  | some p, some r => .next (if r.phase = .waiting then s.whenFree p r else s)
  | _, _ => .next s

/-- The block of a request's copy in progress: those of its moves come first (R424). -/
def JReq.copied (r : JReq) : Nat :=
  let l := r.moving ++ r.cow
  (l[l.length - r.copies.length]?).getD noBlock

/-- A copier begins a request's next copy (`n` = 1), or copies its next 256 bytes (R252, R430): each line stands in the copy as it stood
when the copier read it. -/
def execBlockCopyDone (s : State) : Out :=
  let c := s.evt.core
  match (s.core c).pend s.evt.id, s.jreq c s.evt.id with
  | some p, some r =>
    match r.copies with
    | [] => .next s
    | (src, dst, len) :: rest =>
      if s.evt.n = 1 then
        if r.phase ≠ .control || decide (s.cycle < r.ready) || decide (8 ≤ s.term.junction.copiers) then .next s
        else .next ((s.modJunction (fun j => { j with copiers := j.copiers + 1 }) |>.setReq { r with phase := .copying, chunk := 0 }).after 33 2
          .blockCopyDone (argId c r.id))
      else if r.phase ≠ .copying then .next s
      else
        let f : J Unit := do
          let v ← jRead c (src + 256 * r.chunk) 256
          jWrite c (dst + 256 * r.chunk) 256 v
        let free := fun (s : State) => s.modJunction fun j => { j with copiers := j.copiers - 1 }
        match s.runJ f with
        | .error (.bad cause _ _) =>
          .next ((free s).failReq r p (if cause = 3 then 4 else 0) 0 r.copied)
        | .error (.refused h l a) => .next ((free s).stopReq r p (.refused h l a))
        | .error e => .next (s.stopReq r p e)
        | .ok (_, s) =>
          if 256 * (r.chunk + 1) < len then
            .next ((s.setReq { r with chunk := r.chunk + 1 }).after (1 + s.term.junction.walked) 2 .blockCopyDone (argId c r.id))
          else
            let s := (free s).setReq { r with chunk := 0, copies := rest, phase := .control }
            .next ((if rest.isEmpty then s.after 0 2 .junctionCompletionPoint (argId c r.id)
              else s.after 0 2 .blockCopyDone { argId c r.id with n := 1 }).kickJunction)
  | _, _ => .next s

/-- A request's completion point (R252): all of its changes at once, or it waits for room in the reclaim queue (R428), for a wake, or
evicts for a tree pool that ran short meanwhile. -/
def execJunctionCompletionPoint (s : State) : Out :=
  let c := s.evt.core
  match (s.core c).pend s.evt.id, s.jreq c s.evt.id with
  | some p, some r =>
    if (r.phase != .control && r.phase != .done) || !r.copies.isEmpty then .next s
    else match s.runJ (completeOf c p r) with
      | .ok (some ans, t) => .next (t.leaveJunction { r with taken := [], places := 0 } false ans).watchReclaim
      | .ok (none, _) => .next (s.undoThen r p true 0 0 0 false)
      | .error e =>
        let t := (s.setReq { r with phase := .done }).stopReq { r with phase := .done } p e
        .next (if r.phase = .done then t else t.kickWaiting)
  | _, _ => .next s

/-! ## Reports and reclaim (R429) -/

/-- Entries that the low-water mark has passed are reclaimed. -/
def State.newLow (s : State) : State :=
  let low := s.wlow.toNat
  if s.term.junction.reclaim.any fun e => decide (e.stamp.toNat + 2 ≤ low) then s.after 0 2 .reclaim (EvArg.ofCore 0) else s

/-- A report reaches the Junction (R429): one core's (`k` = 0 with a gather incomplete, 3 without one). With `k` = 1 the interfaces send
their periodic reports, while entries wait for reclaim; with 2 those of the cores without a gather that lie at one distance have arrived. -/
def execXkvgLowWaterReport (s : State) : Out :=
  if s.evt.k = 1 then
    if s.term.junction.reclaim.isEmpty then .next s
    else
      let idle := s.routers.filter fun r => ((s.core r.1).oldestXkvg).isNone
      .next (((idle.map reportWay).eraseDups.foldl (fun s d => s.after d 2 .xkvgLowWaterReport { EvArg.ofCore 0 with k := 2 }) s).after 1024 2
        .xkvgLowWaterReport s.evt)
  else if s.evt.k = 2 then .next (if s.term.junction.reclaim.isEmpty then s else s.newLow)
  else
    let s := s.modJunction fun j =>
      { j with reports := (s.evt.core.val, s.evt.k == 0, s.evt.dw) :: j.reports.filter fun r => r.1 != s.evt.core.val }
    .next (if s.term.junction.reclaim.isEmpty then s else s.newLow)

/-- One entry is reclaimed (R423, R429): a held block returns to the free list, an old place is released. -/
def State.reclaimOne (s : State) (e : Reclaim) : State :=
  let f : J Unit := do
    let a ← jArena e.arena
    let b ← readBlt 0 a e.pbn
    if b.state = 4 ∧ b.sump = e.sump then putFree 0 e.arena e.pbn e.sump
    else jModArena e.arena fun a => a.subUsed e.sump 1
  match f s with
  | .ok (_, t) => t.modJunction fun j => { j with reclaim := j.reclaim.erase e }
  | .error _ => s

/-- Every entry whose stamp the mark has passed is reclaimed (R429). -/
def execReclaim (s : State) : Out :=
  let low := s.wlow.toNat
  let due := s.term.junction.reclaim.filter fun e => decide (e.stamp.toNat + 2 ≤ low)
  .next (if due.isEmpty then s else (due.foldl State.reclaimOne s).kickJunction)

/-! ## `XKVG` (R225) -/

/-- The moves of a gather: each token's bytes of the layer, where its block now lies (R225, R416). A count of 0 makes no access. -/
def gatherMoves (c : CoreId) (p : Pend) : J (List Move) := do
  let n := Word.bits p.c 24 16
  if n = 0 then return []
  let q ← readSqd c p.a.toNat
  let ar ← jArena q.arena
  let first := Word.bits p.c 0 24
  let layer := Word.bits p.c 40 8
  let size := 2 ^ (ar.slg - 4)
  if !q.v || decide (q.tokens < first + n) || decide (ar.layers ≤ layer) then jBad 0 p.a.toNat noBlock
  else (List.range n).mapM fun i => do
    let t := first + i
    let bt ← readBt c q (t / 16)
    let e ← readBlt c ar bt.2
    return { src := ar.place e.sump bt.2 + layer * 2 ^ ar.slg + t % 16 * size, dst := p.b.toNat + i * size, len := size, ok := true }

/-- The bytes of one token of a sequence's arena, for the span of a gather. -/
def State.tokenSize (s : State) (c : CoreId) (a : Nat) : Nat :=
  match readSqd c a s with
  | .ok q => 2 ^ ((s.arena q.1.arena).slg - 4)
  | .error _ => 1

/-- Resolve a gather (R225): its moves, or ERROR, or it stays unresolved (`ws` not empty) after a fault. -/
def State.resolveXkvg (s : State) (c : CoreId) (p : Pend) : Pend × State :=
  match gatherMoves c p s with
  | .ok (ms, t) => ({ p with moves := ms, ws := [] }, t)
  | .error (.fault _ _ _ _ _) => ({ p with ws := [1] }, s)
  | .error (.refused h l a) => ({ p with moves := [], ws := [], err := true }, s.sendRefused c.val h l a)
  | .error _ => ({ p with moves := [], ws := [], err := true }, s)

/-- The pager operations' own fields swap in `a` and `b` of a gather: `a` is the descriptor, `b` the destination. -/
def execXkvg (op : Op) (s : State) : Out :=
  perform op s fun s =>
    let p0 := s.pendOf op .xkvg
    let p := { p0 with a := p0.b, b := p0.a }
    let n := Word.bits p.c 24 16
    let bad := firstBad [s.illop (Word.bits p.c 48 16 != 0), alignBad 64 p.a, s.gloBad [2, 3, 8] false p.a 64,
      s.locBad true p.b (n * s.tokenSize s.iss.core p.a.toNat)]
    s.checked bad fun s =>
      if 16 ≤ ((s.core s.iss.core).queue .ga).length then s.denied QKind.ga.code
      else
        let r := s.resolveXkvg s.iss.core p
        let before := (s.core s.iss.core).oldestXkvg
        let s := r.2.enterQ .ga r.1
        if before.isNone then s.reportXkvg s.iss.core else s

/-! ## Starts -/

/-- A pager request starts: its token list is read, and it travels to the Junction (R254, R400). -/
def State.startPager (s : State) (c : CoreId) (p : Pend) : State :=
  let r := match p.kind with
    | .kvmatch | .kvins => s.engineRead c p (p.c.toNat % 2 ^ 21) (4 * Word.bits p.c 24 24)
    | _ => ([], s)
  let s1 := (r.2.useSpans c p.sbt s.cycle [(p.c.toNat % 2 ^ 21, r.1.length)]).modPend c p.id fun q => { q with started := true, data := r.1 }
  s1.sendClass (p.thr == .prim) c 1 (s.toTerminus c) 2 .pagerRequestArrival (argId c p.id)

/-- A gather that a fault left unresolved is resolved now, or waits for its wake. -/
def State.startXkvg (s : State) (c : CoreId) (p : Pend) : State :=
  if p.ws.isEmpty then (if p.err then (s.modPend c p.id fun q => { q with started := true, performed := true }).completeIn c p.id 1 else s.startCopy c p)
  else match gatherMoves c p s with
    | .error (.fault h k l a _) =>
      if p.refused.contains (faultKey a) then
        (s.modPend c p.id fun q => { q with started := true, performed := true, err := true }).completeIn c p.id 1
      else s.awaitWakes c p.id [(h, k, l, a)]
    | _ =>
      let r := s.resolveXkvg c p
      let s := r.2.modPend c p.id fun _ => r.1
      if r.1.err then
        (s.modPend c p.id fun q => { q with started := true, performed := true }).completeIn c p.id 1
      else s.startCopy c r.1

/-- The head of a queue starts (R217). -/
def execQueueEntryStart (s : State) : Out :=
  let c := s.evt.core
  match (s.core c).pend s.evt.id with
  | none => .next s
  | some p =>
    if p.started then .next s
    else
      let p := { p with issued := s.cycle }
      let s := s.modPend c p.id fun q => { q with issued := s.cycle }
      match p.kind with
      | .marker => .next (s.advanceQueues c)
      | .xcp | .xcp2 | .xga | .xsc => .next (s.startCopy c p)
      | .xkvg => .next (s.startXkvg c p)
      | .xcoll => .next ((s.modPend c p.id fun q => { q with started := true }).after 0 2 .collectiveSourceRead (argId c p.id))
      | _ => .next (s.startPager c p)

/-! ## The pager operations (R248 to R262) -/

/-- The checks of a descriptor address (R253). -/
def State.descBad (s : State) (a : Word) : List (Option Bad) := [alignBad 64 a, s.gloBad [2, 3, 8] false a 64]

/-- `KVMATCH` and `KVINS`: descriptor, result, token descriptor (R254). -/
def State.issueTokens (s : State) (op : Op) (kind : PKind) : State :=
  let p := s.pendOf op kind
  let list := p.c &&& 0x1FFFFF
  s.issueQ .kv (firstBad ([s.illop (Word.bits p.c 21 3 != 0 || Word.bits p.c 48 16 != 0), alignBad 64 p.a, alignBad 8 p.b, alignBad 4 list] ++
    s.descBad p.a ++ [s.locBad true p.b 8, s.locBad false list (4 * Word.bits p.c 24 24)])) p

def execKvmatch (op : Op) (s : State) : Out := perform op s fun s => s.issueTokens op .kvmatch
def execKvins (op : Op) (s : State) : Out := perform op s fun s => s.issueTokens op .kvins

def execKvapp (op : Op) (s : State) : Out :=
  perform op s fun s =>
    let p := s.pendOf op .kvapp
    s.issueQ .kv (firstBad ([s.illop (decide (4096 < p.b.toNat)), alignBad 64 p.a, alignBad 8 p.c] ++ s.descBad p.a ++
      [s.locBad true p.c (8 * p.b.toNat)])) p

def execKvrel (op : Op) (s : State) : Out :=
  perform op s fun s =>
    let p := s.pendOf op .kvrel
    s.issueQ .kv (firstBad (s.descBad p.a)) p

def execKvpin (op : Op) (s : State) : Out :=
  perform op s fun s =>
    let p := s.pendOf op .kvpin
    s.issueQ .kv (firstBad (s.illop (Word.bits p.b 48 16 != 0) :: s.descBad p.a)) p

/-- `KVDEM` and `KVPROM` (R261). -/
def State.issueMove (s : State) (op : Op) (kind : PKind) : State :=
  let p := s.pendOf op kind
  let sweep := op.x12.getLsbD 0
  s.issueQ .kv (firstBad [s.illop (Word.bits p.a 28 36 != 0 || (if sweep then Word.bits p.a 0 24 == 0 else p.b != 0)), alignBad 8 p.c,
    s.locBad true p.c 8]) p

def execKvdem (op : Op) (s : State) : Out := perform op s fun s => s.issueMove op .kvdem
def execKvprom (op : Op) (s : State) : Out := perform op s fun s => s.issueMove op .kvprom

end Sys2Proof.Machine
end

