-- ==== Sys2Proof/Machine/FlowArea.lean ====
section
/-! DEFINITION. A core's Flowstone area (R457 to R460): its bytes, the redo log's tag words and commit records with their CRC-32C, and
what its records say. -/

namespace Sys2Proof.Machine

open Sys2Proof

/-! ## CRC-32C (R460) -/

/-- Eight steps of the reflected polynomial `0x82F6_3B78`. -/
def crcStep : Nat → BitVec 32 → BitVec 32
  | 0, r => r
  | n + 1, r => crcStep n (if r.getLsbD 0 then (r >>> 1) ^^^ 0x82F63B78 else r >>> 1)

/-- CRC-32C: reflected, with initial value and final exclusive-or all ones, over bytes in rising address order. -/
def crc32c (bs : List Byte) : BitVec 32 := ~~~(bs.foldl (fun r b => crcStep 8 (r ^^^ b.setWidth 32)) (BitVec.allOnes 32))

/-! ## The area (R457, R458) -/

/-- A byte of a core's Flowstone area. -/
def flowKey (c : CoreId) (off : Nat) : Nat := 8 * 2 ^ 52 + c.val * 2 ^ 42 + off

/-- The offsets of R457 and R458: line n of the shadow, its full-empty byte, a capture slot, a commit record slot, an extension area, the
tag word and the line data of a log entry. -/
def flowShadow (n : Nat) : Nat := 64 * n
def flowFe (n : Nat) : Nat := 0x200000 + n
def flowCapture (seq : Nat) : Nat := 0x248000 + 0x14000 * (seq % 2)
def flowRecord (seq : Nat) : Nat := 0x208000 + 0x40 * (seq % 2)
def flowExt (seq : Nat) : Nat := 0x208000 + 0x1000 + 0xD000 * (seq % 2)
def flowTag (i : Nat) : Nat := 0x208000 + 0x1B000 + 8 * i
def flowData (i : Nat) : Nat := 0x208000 + 0x1F000 + 64 * i

/-- Bytes of an area. -/
def State.readFlow (s : State) (c : CoreId) (off n : Nat) : List Byte := s.readKey (flowKey c off) n
/-- A doubleword of an area. -/
def State.flowDw (s : State) (c : CoreId) (off : Nat) : Nat := bytesToNat (s.readFlow c off 8)
/-- Write bytes of an area. -/
def State.writeFlow (s : State) (c : CoreId) (w : Nat × List Byte) : State := s.writeKey (flowKey c w.1) w.2

/-! ## Records (R459, R460) -/

/-- A tag word. -/
def tagWord (seq line : Nat) (fe : BitVec 8) : Nat := seq % 2 ^ 32 * 2 ^ 32 + fe.toNat * 2 ^ 24 + 2 ^ 23 + line % 2 ^ 15

/-- A commit record. -/
structure Commit where
  seq : Nat
  isOpen : Bool
  rounds : Nat
  dirty : Nat
  nlog : Nat
  stamp : Word
  extLen : Nat
  lcrc : BitVec 32
  ccrc : BitVec 32
  deriving DecidableEq, Repr

/-- Its doublewords +0x00 to +0x20, over which `RCRC` is taken. -/
def Commit.head (r : Commit) : List Byte :=
  natToBytes 8 (r.seq % 2 ^ 63) ++
    natToBytes 8 ((if r.isOpen then 1 else 2) * 2 ^ 60 + (r.rounds - 1) % 16 * 2 ^ 48 + r.dirty % 2 ^ 16 * 2 ^ 32 + r.nlog % 2 ^ 12) ++
    natToBytes 8 r.stamp.toNat ++ natToBytes 8 (r.extLen % 2 ^ 16 * 2 ^ 32 + r.lcrc.toNat) ++ natToBytes 8 r.ccrc.toNat

/-- Its 64 bytes, with `APPLIED` = 0. -/
def Commit.bytes (r : Commit) : List Byte :=
  r.head ++ natToBytes 8 (crc32c r.head).toNat ++ natToBytes 8 0 ++ natToBytes 8 0x5A

/-- The fields of the record in a slot. -/
def State.recSeq (s : State) (c : CoreId) (j : Nat) : Nat := s.flowDw c (flowRecord j) % 2 ^ 63
def State.recState (s : State) (c : CoreId) (j : Nat) : Nat := s.flowDw c (flowRecord j + 8) / 2 ^ 60
def State.recNlog (s : State) (c : CoreId) (j : Nat) : Nat := s.flowDw c (flowRecord j + 8) % 2 ^ 12
def State.recExtLen (s : State) (c : CoreId) (j : Nat) : Nat := s.flowDw c (flowRecord j + 0x18) / 2 ^ 32 % 2 ^ 16
def State.recApplied (s : State) (c : CoreId) (j : Nat) : Bool := s.flowDw c (flowRecord j + 0x30) / 2 ^ 63 == 1

/-- Whether the record in a slot is readable, and not passed over. An `OPEN` record that stays newest because a write after it has failed is
readable, though the commit record that was to take its place is torn (R464). -/
def State.recReadable (s : State) (c : CoreId) (j : Nat) : Bool :=
  vget (s.core c).flow.fates j == .stillOpen || vget (s.core c).flow.fates j != .passedOver && s.flowDw c (flowRecord j + 0x38) % 256 == 0x5A &&
    s.flowDw c (flowRecord j + 0x28) % 2 ^ 32 == (crc32c (s.readFlow c (flowRecord j) 40)).toNat &&
    (s.recState c j == 1 || s.recState c j == 2)

/-- Whether the record in a slot is an `OPEN` record, or counts as one (R464). -/
def State.recOpen (s : State) (c : CoreId) (j : Nat) : Bool := s.recState c j == 1 || vget (s.core c).flow.fates j == .stillOpen

/-- The bytes that `LCRC` covers: tag words, their line data, the extension. -/
def State.logBytes (s : State) (c : CoreId) (seq nlog extLen : Nat) : List Byte :=
  s.readFlow c (flowTag 0) (8 * nlog) ++ s.readFlow c (flowData 0) (64 * nlog) ++ s.readFlow c (flowExt seq) extLen

/-- Whether the commit in a slot is undamaged: `CCRC` matches, and `LCRC` while its log is still to be applied. A log that has been applied
may have been written over by the next checkpoint's entries, and its commit is chosen all the same (R455, R466; log 20). -/
def State.recGood (s : State) (c : CoreId) (j : Nat) : Bool :=
  s.flowDw c (flowRecord j + 0x20) % 2 ^ 32 == (crc32c (s.readFlow c (flowCapture j) 0x14000)).toNat &&
    (s.recApplied c j || s.flowDw c (flowRecord j + 0x18) % 2 ^ 32 ==
      (crc32c (s.logBytes c j (s.recNlog c j) (s.recExtLen c j))).toNat)

/-- Whether a slot holds a valid commit. -/
def State.recValid (s : State) (c : CoreId) (j : Nat) : Bool := s.recReadable c j && !s.recOpen c j && s.recGood c j

/-- The sequence number of the newest valid commit, 0 for none (R460, R461). -/
def State.newestCommit (s : State) (c : CoreId) : Nat :=
  [0, 1].foldl (fun m j => if s.recValid c j then max m (s.recSeq c j) else m) 0

/-- The choice of R466: resume from the commit in a slot, or no restorable state with its cause and the newest sequence number. -/
inductive Choice where
  | resume (slot : Nat)
  | none_ (cause seq : Nat)
  deriving DecidableEq, Repr

/-- What a core restores from (R466): its newest readable record decides. -/
def State.choose (s : State) (c : CoreId) : Choice :=
  let best := [0, 1].foldl (fun (m : Option Nat) j =>
    if !s.recReadable c j then m else match m with | none => some j | some i => if s.recSeq c i < s.recSeq c j then some j else m) none
  match best with
  | none => .none_ 1 0
  | some j => if s.recOpen c j then .none_ 2 (s.recSeq c j) else if !s.recGood c j then .none_ 3 (s.recSeq c j) else .resume j

/-! ## Lines (R457, R461) -/

/-- A line of a core's scratchpad: its number, its data and its full-empty bits. -/
def State.lineOf (s : State) (c : CoreId) (n : Nat) : Nat × List Byte × BitVec 8 :=
  let k := scratchKey c (64 * n)
  (n, s.readKey k 64, (List.range 8).foldl (fun m i => if s.isFull (k + 8 * i) then m ||| (1#8 <<< i) else m) 0)

/-- Write a line into the scratchpad. -/
def State.putLine (s : State) (c : CoreId) (l : Nat × List Byte × BitVec 8) : State :=
  let k := scratchKey c (64 * l.1)
  (List.range 8).foldl (fun s i => s.setFe (k + 8 * i) (l.2.2.getLsbD i)) (s.writeKey k l.2.1)

/-- Apply a line to the shadow. -/
def applyLine (l : Nat × List Byte × BitVec 8) : List (Nat × List Byte) := [(flowShadow l.1, l.2.1), (flowFe l.1, [l.2.2])]

/-- The log entries that belong to a sequence number: `V` = 1 and `SEQL` matching (R466). -/
def State.logEntries (s : State) (c : CoreId) (seq : Nat) : List (Nat × List Byte × BitVec 8) :=
  (List.range 2048).filterMap fun i =>
    let w := s.flowDw c (flowTag i)
    if w / 2 ^ 23 % 2 = 1 ∧ w / 2 ^ 32 = seq % 2 ^ 32 then
      some (w % 2 ^ 15, s.readFlow c (flowData i) 64, BitVec.ofNat 8 (w / 2 ^ 24))
    else none

end Sys2Proof.Machine
end

