-- ==== Sys2Proof/Machine/Supervisor.lean ====
section
/-! DEFINITION. Captures and resumes (R377 to R384), the supervisor's record ring and its handler (R367 to R369, R518), the window
onto halted threads and their resume (R269 to R272, R373 to R375), `XLINV` (R273), and the block-table steps (R313, R314). -/

namespace Sys2Proof.Machine

open Sys2Proof

/-! ## The capture frame (R380, R381) -/

/-- The bytes of a doubleword. -/
def dwBytes (w : Word) : List Byte := natToBytes 8 w.toNat

/-- A number as a doubleword's bytes. -/
def numBytes (n : Nat) : List Byte := natToBytes 8 n

/-- The doubleword at +0x38 of a record, without `DRN`: `PRES` and `DONE` (R370). -/
def maskWord (drn : Bool) (pres done : BitVec 10) : Nat := flagAt drn 32 + pres.toNat * 2 ^ 16 + done.toNat

/-- Predicates, as `PMOV` form 1 reads them (R121): `p0` reads true. -/
def Regs.predWord (r : Regs) : Nat := (r.p ||| 1).toNat

/-- A flight entry's header (R371). -/
def Flight.head (f : Flight) : Nat :=
  let file := match f.file with
    | .s => 0
    | .p => 1
    | .v => 2
    | .k => 3
    | .tileHalf => 4
    | .mfmt => 5
    | .pAll => 6
    | .ctl => 7
  f.creg.toNat * 2 ^ 39 + flightLen f * 2 ^ 31 + f.flg.toNat * 2 ^ 25 + flagAt (f.file == .tileHalf && f.half) 24 +
    (if f.file == .pAll || f.file == .mfmt || f.file == .ctl then 0 else f.reg.toNat) * 2 ^ 19 + file * 2 ^ 15 +
    f.lcd % 32 * 2 ^ 10 + f.rcd % 32 * 2 ^ 5 + flagAt f.nw 4 + f.slot

/-- A flight entry: its header and its value (R371). -/
def Flight.words (f : Flight) : List Word :=
  BitVec.ofNat 64 f.head :: (List.range (flightLen f)).map fun i => f.val.extractLsb' (64 * i) 64

/-- The bytes of the extension: the stationary latches, and the flight entries from `0x2000` (R381). -/
def Prim.extension (p : Prim) : List Byte :=
  (p.regs.b.toList.flatMap fun x => natToBytes 2048 x.toNat) ++
    (slotOrder p.flight).flatMap fun f => f.words.flatMap dwBytes

/-- The length of the extension in bytes. -/
def Prim.extLen (p : Prim) : Nat := 8192 + 8 * (p.flight.map fun f => 1 + flightLen f).sum

/-- The cycles of a capture or a resume: 160, or those of the extension at 64 bytes a cycle (R379, R384). -/
def Prim.frameCycles (p : Prim) : Nat := max 160 ((p.extLen + 63) / 64)

/-- What a frame holds beside the registers of the primary: the block table and the limits of the core, the masks of a faulting bundle, the
cause and the time of the capture, the resume address. -/
structure FrameCtx where
  back : Word
  sbt : Vector Word 64
  qlimit : BitVec 32
  felimit : BitVec 32
  pres : BitVec 10
  done : BitVec 10
  cause : BitVec 8
  at_ : Word

/-- The doublewords of a frame from `0x1_1E00` on (R380). -/
def Prim.frameTail (p : Prim) (x : FrameCtx) : List Byte :=
  let r := p.regs
  dwBytes x.back ++ dwBytes p.br.bt1Word ++ dwBytes p.br.bt2Word ++ numBytes (maskWord p.br.drn x.pres x.done) ++
    numBytes r.predWord ++ numBytes (flagAt p.mxerr 1 + flagAt p.wawseen 0) ++
    numBytes (p.fpxen.toNat * 2 ^ 32 + p.fpstat.toNat) ++ numBytes (x.felimit.toNat * 2 ^ 32 + x.qlimit.toNat) ++
    dwBytes p.mfmt ++ numBytes (p.given.toNat * 16 + p.commits % 4) ++ numBytes (r.iy.toNat * 2 ^ 32 + r.ix.toNat) ++
    numBytes r.iz.toNat ++ numBytes (tagBits p.tags.toList) ++ numBytes (tagStatus (p.tags.toList.take 32)) ++
    numBytes (tagStatus (p.tags.toList.drop 32)) ++ numBytes x.cause.toNat ++ dwBytes x.at_ ++
    numBytes (p.extLen % 2 ^ 16 * 2 ^ 32 + p.flight.length)

/-- The 512-byte vector `i` of a frame, of 160 (R379, R380). -/
def Prim.frameVec (p : Prim) (x : FrameCtx) (i : Nat) : List Byte :=
  let r := p.regs
  if i < 64 then natToBytes 512 (r.rdV (BitVec.ofNat 6 i)).toNat
  else if i < 128 then natToBytes 512 ((r.rdA ((i - 64) / 2)).toNat / 2 ^ (4096 * (i % 2)))
  else if i < 130 then (List.range 8).flatMap fun j => natToBytes 64 (r.rdK (BitVec.ofNat 6 (8 * (i - 128) + j))).toNat
  else if i = 130 then (List.range 64).flatMap fun j => dwBytes (r.rdS (BitVec.ofNat 6 j))
  else if i < 141 then natToBytes 512 (r.rdLatch (i - 131)).toNat
  else if i = 141 then x.sbt.toList.flatMap dwBytes
  else if i = 142 then p.tags.toList.flatMap fun t => dwBytes t.stamp
  else if i = 143 then p.frameTail x ++ List.replicate 368 0
  else List.replicate 512 0

/-- The masks of the bundle at which a context stands: of its fault, or of a replay that is owed (R370, R374). -/
def Prim.frameMasks (p : Prim) : BitVec 10 × BitVec 10 :=
  match p.fault with
  | some r => (r.pres, r.done)
  | none => if p.replay = 0 then (0, 0) else (p.lastSlots ||| p.replay, p.lastSlots &&& ~~~p.replay)

/-- Write bytes at a global address, in pieces of 4 KiB; a piece that does not translate is left out (log 14). -/
def State.writeGlobal (s : State) (c : CoreId) (a : Nat) (bs : List Byte) : State :=
  (List.range ((bs.length + 4095) / 4096)).foldl (fun s i =>
    let part := (bs.drop (4096 * i)).take 4096
    let r := s.answer c (a + 4096 * i) part.length false accCopy
    r.2.1.writeAt r.1 true ⟨c.val, 0, 0⟩ (a + 4096 * i) part) s

/-- An older captured context goes with its extension to the save slot of its launch, 112 KiB (R381). -/
def State.saveOlder (s : State) (c : CoreId) : State :=
  match (s.core c).cap with
  | none => s
  | some k =>
    let slot := match k.launch with
      | some n => (match s.wrec .launch n with | some r => r.save.toNat | none => 0)
      | none => 0
    let s := s.writeGlobal c slot (s.readKey k.frameAt 0x14000 ++ s.readKey (l2Key c 15 0) 0x8000)
    s.modCore c fun x => { x with cap := none, saved := x.saved ++ [{ k with frameAt := slot, slot := true }] }

/-- What stands on the primary while a context is captured: what R40 and the frame do not take along stays as it stands; queues
and credits belong to the position (R378), tags to the task (R382). -/
def Prim.afterCapture (p : Prim) : Prim :=
  { Prim.reset with
    mode := .capturing, portq := p.portq, credits := p.credits, wawseen := p.wawseen, mxerr := p.mxerr, mfmt := p.mfmt,
    fpstat := p.fpstat, fpxen := p.fpxen, lastSlots := p.lastSlots, lastIssue := p.lastIssue }

/-- The resume address of a halted primary: after `TRAP` or `SYS`, the bundle that comes next (R373). -/
def State.resumeAt (s : State) (c : CoreId) (r : FaultRec) : Word :=
  let p := s.prim c
  if r.moved || r.enc || r.pres &&& ~~~r.done ≠ 0 then p.pc
  else (p.br.next ((s.core c).fetchBundle .prim p.pc none none).next).1

/-- The frame's and the extension's writes begin (R379, R381): an older context goes to its save slot, coordinates that the unit has not
started return (R292), way 15 takes the extension, and the context is set aside; its operations' tags are its own from now on (R382). The
frame's 160 vectors take bank ports before the scavengers (R140). -/
def State.beginFrame (s : State) (c : CoreId) (cause : BitVec 8) (idle : Bool) : State :=
  let s := s.saveOlder c
  let s := if cause = 0x12 then s.returnChunk c else s
  let p := s.prim c
  let base := (s.core c).ctl.capbase.toNat * 4096
  let s := (s.modCore c fun x => x.withdrawWay 15).writeKey (l2Key c 15 0) p.extension
  let k : Captured := { frameAt := scratchKey c base, slot := false, keep := p, at_ := s.tscOf c, cause := cause, idle := idle,
                         back := match p.fault with | some r => s.resumeAt c r | none => p.pc }
  (s.modCore c fun x =>
    { x.mapQueues (fun l => l.map fun q => if q.thr == .prim && !q.prot then { q with prot := true, unit := k.launch } else q) with
      cap := some k, prim := p.afterCapture }).usePorts c (s.clock c) 512 [(base, 0x14000)]

/-- What the frame of a captured context holds beside its registers. -/
def State.frameCtx (s : State) (c : CoreId) (k : Captured) : FrameCtx :=
  let x := (s.core c).ctl
  ⟨k.back, x.sbt, x.qlimit, x.felimit, k.keep.frameMasks.1, k.keep.frameMasks.2, k.cause, k.at_⟩

/-- Vector `i` of the frame is written, to the capture slot that does not hold the newest valid commit as well when `MIRROR` = 1 (R379,
R471). -/
def State.writeVector (s : State) (c : CoreId) (k : Captured) (i : Nat) : State :=
  let bs := k.keep.frameVec (s.frameCtx c k) i
  let s := s.writePhys c (k.frameAt - scratchKey c 0 + 512 * i) bs
  if (s.core c).ctl.mirror then s.writeFlow c (flowCapture (s.newestCommit c + 1) + 512 * i, bs) else s

/-- A capture (R365, R379): once `Q.MX` has drained its writes begin, and then, with `id` = i + 1, vector i is written, one in each cycle.
The cause is in `k`; `n` = 1 marks an idle primary. -/
def execCaptureStart (s : State) : Out :=
  let c := s.evt.core
  if (s.prim c).mode != .capturing then .next s
  else if s.evt.id = 0 then
    if !(s.core c).qmx.isEmpty then .next (s.after 1 1 .captureStart s.evt)
    else
      let d := (s.prim c).frameCycles
      let s := s.beginFrame c (BitVec.ofNat 8 s.evt.k) (s.evt.n == 1)
      .next ((s.after 0 1 .captureStart { s.evt with id := 1 }).after (d - 1) 2 .captureEnd s.evt)
  else match (s.core c).cap with
    | none => .next s
    | some k =>
      let s := s.writeVector c k (s.evt.id - 1)
      .next (if s.evt.id < 160 then s.after 1 1 .captureStart { s.evt with id := s.evt.id + 1 } else s)

/-- A capture ends (R379): the handler is entered, the migration goes on (R511), or the core takes its launch (R493). -/
def execCaptureEnd (s : State) : Out :=
  let c := s.evt.core
  if (s.prim c).mode != .capturing then .next s
  else if s.evt.k = 0x14 then .next (s.after 0 2 .migration { EvArg.ofCore c with k := 2 })
  else if isSupervisor c then .next (s.after 0 2 .supervisorHandlerEntry (EvArg.ofCore c))
  else .next (((s.modPrim c fun p => { p with mode := .idle }).modCore c fun x => { x with capReq := none }).offerTo c)

/-! ## Resume (R373 to R375, R384) -/

/-- One doubleword of a frame or, from `0x1_4000` on, of its extension. -/
def State.frameDw (s : State) (c : CoreId) (k : Captured) (off : Nat) : Nat := bytesToNat (s.readAt (s.frameAt c k off) 8)

/-- The number in `n` doublewords of a frame, given how one is read. -/
def frameNat (dw : Nat → Nat) (off : Nat) : Nat → Nat
  | 0 => 0
  | n + 1 => dw off + 2 ^ 64 * frameNat dw (off + 8) n

/-- A pending target in the layout of R370. -/
def frameTarget (w : Nat) : Option Word := if w % 2 = 1 then some (BitVec.ofNat 64 (w / 4 * 4)) else none

/-- The registers that a frame and its extension hold. -/
def frameRegs (dw : Nat → Nat) : Regs :=
  { s := Vector.ofFn fun i : Fin 64 => BitVec.ofNat 64 (dw (0x10400 + 8 * i.val))
    p := BitVec.ofNat 16 (dw 0x11E20) &&& 0xFFFE
    v := Vector.ofFn fun i : Fin 64 => BitVec.ofNat 4096 (frameNat dw (512 * i.val) 64)
    k := Vector.ofFn fun i : Fin 16 => BitVec.ofNat 512 (frameNat dw (0x10000 + 64 * i.val) 8)
    a := Vector.ofFn fun i : Fin 32 => BitVec.ofNat 8192 (frameNat dw (0x8000 + 1024 * i.val) 128)
    b := Vector.ofFn fun i : Fin 4 => BitVec.ofNat 16384 (frameNat dw (0x14000 + 2048 * i.val) 256)
    ix := BitVec.ofNat 32 (dw 0x11E50)
    iy := BitVec.ofNat 32 (dw 0x11E50 / 2 ^ 32)
    iz := BitVec.ofNat 32 (dw 0x11E58)
    latch := Vector.ofFn fun i : Fin 10 => BitVec.ofNat 4096 (frameNat dw (0x10600 + 512 * i.val) 64) }

/-- A flight entry from its header and its value (R371). -/
def Flight.ofHead (h v : Nat) : Flight :=
  let file : RFile := match h / 2 ^ 15 % 16 with
    | 0 => .s
    | 1 => .p
    | 2 => .v
    | 3 => .k
    | 4 => .tileHalf
    | 5 => .mfmt
    | 6 => .pAll
    | _ => .ctl
  { slot := h % 16, file := file, reg := BitVec.ofNat 6 (h / 2 ^ 19 % (if file = .tileHalf then 32 else 64))
    half := file == .tileHalf && h / 2 ^ 24 % 2 == 1, creg := BitVec.ofNat 12 (h / 2 ^ 39), nw := h / 16 % 2 == 1
    lcd := h / 2 ^ 10 % 32, rcd := h / 2 ^ 5 % 32, flg := BitVec.ofNat 6 (h / 2 ^ 25), val := BitVec.ofNat 4096 v }

/-- The flight entries of an extension, from an offset on. -/
def frameFlights (dw : Nat → Nat) : Nat → Nat → List Flight
  | 0, _ => []
  | n + 1, off =>
    let h := dw off
    let len := h / 2 ^ 31 % 2 ^ 8
    Flight.ofHead h (frameNat dw (off + 8) len) :: frameFlights dw n (off + 8 + 8 * len)

/-- The tags that a frame holds, with the counts of the interface (R382). -/
def frameTagsOf (dw : Nat → Nat) (keep : Vector Tag 64) : Vector Tag 64 :=
  Vector.ofFn fun i : Fin 64 =>
    { ready := dw frameTags / 2 ^ i.val % 2 == 1
      status := BitVec.ofNat 2 (dw (frameTagst + 8 * (i.val / 32)) / 2 ^ (2 * (i.val % 32)))
      count := (vget keep i.val).count
      stamp := BitVec.ofNat 64 (dw (frameStamps + 8 * i.val))
      doneAt := (vget keep i.val).doneAt }

/-- The primary that a frame and its extension describe (R384), and what stands beside them in `keep`. Queues and credits are those of the
position now. A frame whose resume address is not the one it was written with (`back`) is entered there, with nothing to replay. -/
def framePrim (dw : Nat → Nat) (keep now : Prim) (back : Word) : Prim :=
  let pc : Word := BitVec.ofNat 64 (dw 0x11E00)
  { keep with
    regs := frameRegs dw, flight := frameFlights dw (dw 0x11E88 % 4096) 0x16000, pc := if pc = back then keep.pc else pc
    mode := .running, hold := none, marks := [], replay := 0
    br := { bt1 := frameTarget (dw 0x11E08), gap := dw 0x11E08 / 2 % 2 == 1, drn := dw 0x11E18 / 2 ^ 32 % 2 == 1,
            src1 := keep.br.src1, bt2 := frameTarget (dw 0x11E10), drn2 := keep.br.drn2, src2 := keep.br.src2 }
    entryFrom := if pc = back then keep.entryFrom else some (BitVec.allOnes 64)
    mxerr := dw 0x11E28 / 2 % 2 == 1, wawseen := dw 0x11E28 % 2 == 1
    fpstat := BitVec.ofNat 6 (dw 0x11E30), fpxen := BitVec.ofNat 6 (dw 0x11E30 / 2 ^ 32), mfmt := BitVec.ofNat 64 (dw 0x11E40)
    commits := keep.commits / 4 * 4 + dw 0x11E48 % 4, given := BitVec.ofNat 4 (dw 0x11E48 / 16)
    tags := frameTagsOf dw keep.tags, portq := now.portq, credits := now.credits
    lastSlots := now.lastSlots, lastIssue := now.lastIssue }

/-- The block table of a frame. `BSY` stands as it is now, and an entry whose spill or fill was in progress at the capture and has ended
since has the `SP` that its end gives (log 15). -/
def State.frameSbt (s : State) (c : CoreId) (dw : Nat → Nat) : Vector Word 64 :=
  Vector.ofFn fun i : Fin 64 =>
    let w := BitVec.ofNat 64 (dw (0x11A00 + 8 * i.val))
    let busy := (vget (s.sbt c) i.val).getLsbD 61
    sbtWord (w.getLsbD 63) (w.getLsbD 62 != (w.getLsbD 61 && !busy)) busy (Word.bits w 8 4) (Word.bits w 0 6)

/-- The context of a frame stands on the primary again (R382, R384): its operations' tags are the primary's, the statuses of what ran
meanwhile are nobody's, and way 15 caches again. -/
def State.restore (s : State) (c : CoreId) (k : Captured) : State :=
  let dw := s.frameDw c k
  let p := framePrim dw k.keep (s.prim c) k.back
  let sbt := s.frameSbt c dw
  let lims := dw 0x11E38
  let s := s.modCore c Core.orphanPends
  let s := s.modCore c fun x =>
    { x.mapQueues (fun l => l.map fun q => if q.prot && q.unit == k.launch then { q with prot := false } else q) with
      prim := p, cap := x.cap.filter (fun q => q.launch != k.launch), saved := x.saved.filter (fun q => q.launch != k.launch)
      qmx := x.qmx.map fun e => { e with batch := none }
      ctl := { x.ctl with sbt := sbt, qlimit := BitVec.ofNat 32 lims, felimit := BitVec.ofNat 32 (lims / 2 ^ 32) } }
  let s := s.modCore c fun x => if x.cap.isNone then x.returnWay 15 else x
  match k.launch with
  | some n => (match s.wrec .launch n with | some r => s.modCore c fun x => { x with code := r.code } | none => s)
  | none => s

/-- A primary goes on past a bundle that is complete, `d` cycles from now. -/
def State.goPast (s : State) (c : CoreId) (d : Nat) : State :=
  let p := s.prim c
  let f := (s.core c).fetchBundle .prim p.pc none none
  if p.endOwed then s.endBody c else (s.advance c f.next).goOn c d

/-- Return of a primary under its record (R272 to R375): the bundle is fetched again, its incomplete operations issue again, or, when
none is left, the next bundle issues; a bundle of which a skip leaves nothing takes the cycle of its replay. An omission holds for one re-fetch (R373). -/
def State.resumePrim (s : State) (c : CoreId) (r : FaultRec) (skip : Bool) (d : Nat) : State :=
  let s := s.modPrim c fun p => { p with mode := .running, fault := none, hold := none, omitAt := none }
  let go := fun (s : State) => s.after d 1 .bundleFetch (EvArg.ofCore c)
  if r.moved then go s
  else if r.enc then
    go (if skip && r.code != codeMISTARGET && r.code != codePROT then s.modPrim c fun p => { p with omitAt := some r.waddr } else s)
  else
    let left := r.pres &&& ~~~r.done &&& ~~~(if skip then 1#10 <<< r.slot.toNat else 0)
    if left = 0 then s.goPast c (if r.pres &&& ~~~r.done = 0 then d else d + 1) else go (s.modPrim c fun p => { p with replay := left })

/-- Return of a scavenger under its record. -/
def State.resumeScav (s : State) (c : CoreId) (k : Fin 8) (r : FaultRec) (skip : Bool) : State :=
  let x := s.scav c k
  let f := (s.core c).fetchBundle (.scav k) x.pc none none
  let past := skip && !r.moved && !r.enc && (r.pres &&& ~~~r.done) != 0
  let leave := skip && !r.moved && r.enc && r.code != codeMISTARGET && r.code != codePROT
  let s := s.modScav c k fun x =>
    { x with st := .ready, fault := none, wait := none, marks := [], pc := if past then f.next else x.pc
             omitAt := if leave then some r.waddr else none
             entryFrom := if past then none else x.entryFrom }
  s.joinBarrel c k

/-- A unit ended by `SVRES.end` (R272, R494): it is discarded as a hard cancel discards it, its end sets `ERR`, and the fetcher goes on
with the task's next coordinate. -/
def State.endUnit (s : State) (c : CoreId) : State :=
  let s := (s.dropIssue c).modCore c fun x => { x with qmx := x.qmx.filter fun e => decide (e.start ≤ s.clock c) }
  if !(s.core c).qmx.isEmpty || s.deferPreempt c then s.after 1 2 .contextResume { s.evt with k := 4 }
  else
    let s := s.dropColl c fun p => p.thr == .prim && !p.prot
    let s := s.modPrim c fun p =>
      { p with br := Pending.clear, hold := none, replay := 0, omitAt := none, entryFrom := none, owesDrain := false, endOwed := false,
               marks := [], fault := none, mode := .entering }
    let s := s.startTicks c
    let s := match (s.prim c).task with
      | some t => if t.body then
          (s.modPrim c fun p => { p with task := some { t with body := false } }).sendBy c 1
            (s.toRoundhouse c (dieOfRec .launch t.launch)) 2 .unitEndReport { EvArg.ofCore c with n := t.launch, k := 1 }
          else s
      | none => s
    if (s.prim c).noneWaits then s.after 1 3 .bodyEntry (EvArg.ofCore c) else s.after 3 1 .bodyEntry (EvArg.ofCore c)

/-- A scavenger ended by `SVRES.end` enters `WAITW` (R272). -/
def State.endCodelet (s : State) (c : CoreId) (k : Fin 8) : State :=
  let x := s.scav c k
  let s := s.writeProg c (s.sbt c) true (x.wp.toNat + 0x100) (natToBytes 8 x.pc.toNat)
  let s := (s.modScav c k fun x => { x with st := .waiting, fault := none, wait := none, marks := [], omitAt := none, freeFrom := s.clock c + 1 }).releaseSlot c k
  s.after 1 3 .dispatch (EvArg.ofCore c)

/-! ## The record ring (R367 to R369) -/

/-- Whether the ring has room and takes records. -/
def CoreCtl.ringOpen (k : CoreCtl) : Bool :=
  k.svrb.getLsbD 63 && (k.svTail.toNat + 1) % 2 ^ Word.bits k.svrb 0 4 != k.svHead.toNat % 2 ^ Word.bits k.svrb 0 4

/-- The thread whose notice stands in the ring may be looked at and resumed (R269). -/
def State.noteReceived (s : State) (r : Rec64) : State :=
  let h := r[0]
  if 0x20 ≤ Word.bits h 0 8 then s
  else
    let c := coreOfNat (Word.bits h 16 10)
    let got := fun (f : Option FaultRec) => f.map fun q => if q.stamp == r[4] then { q with received := true } else q
    match Word.bits h 26 4 with
    | 0 =>
      let s := s.modPrim c fun p => { p with fault := got p.fault }
      s.modCore c fun x => { x with cap := x.cap.map fun k => { k with keep := { k.keep with fault := got k.keep.fault } } }
    | n + 1 => if n < 8 then s.modScav c ⟨n % 8, Nat.mod_lt _ (by decide)⟩ fun x => { x with fault := got x.fault } else s

/-- Write the records that wait, in their order, while there is room (R368); an operand guard holds them (R202). -/
def State.fillRing (s : State) (c : CoreId) : List Rec64 → State
  | [] => s.modCore c fun x => { x with ringOut := [] }
  | r :: l =>
    let k := (s.core c).ctl
    if !k.ringOpen then s.modCore c fun x => { x with ringOut := r :: l }
    else
      let at_ := Word.bits k.svrb 12 9 * 4096 + 64 * (k.svTail.toNat % 2 ^ Word.bits k.svrb 0 4)
      let g := s.guardEnd c (s.sbt c) at_ 64
      if g ≠ 0 then (s.modCore c fun x => { x with ringOut := r :: l }).after g 2 .ringRecordWrite (EvArg.ofCore c) else
      let s := (s.writeProg c (s.sbt c) true at_ (r.toList.flatMap dwBytes)).useSpans c (s.sbt c) s.cycle [(at_, 64)]
      let s := s.modCtl c fun k => { k with svTail := BitVec.ofNat 16 ((k.svTail.toNat + 1) % 2 ^ Word.bits k.svrb 0 4) }
      State.fillRing (s.noteReceived r) c l

/-- Enter the handler from an idle primary, or at once after a fault of the supervisor's own (R369). -/
def State.enterIfIdle (s : State) (c : CoreId) (own : Bool) : State :=
  let p := s.prim c
  let blocked := (s.core c).frozen || (s.core c).ctl.svAct
  if blocked then s
  else if own && p.mode == .halted then s.beginCapture c 0x12
  else if p.mode == .idle && s.handlerDue c then s.beginCapture c 0x12
  else s

/-- The boot goes on with the station's program and the message windows once every die's supervisor has set `SVRB.EN` (R519). -/
def State.openWindows (s : State) : State :=
  if s.term.service.boot == .running && !s.term.service.windowsOpen &&
      (List.finRange 4).all fun d => (s.core (supervisorOf d)).ctl.svrb.getLsbD 63 then
    s.after 0 2 .powerOnBoot { EvArg.ofCore 0 with k := 2 }
  else s

/-- A record reaches the supervisor's interface, or its ring's registers have changed (R368): the records that wait are written in
their order, and an idle primary enters its handler. `k` = 1 marks the notice of its own primary. -/
def execRingRecordWrite (s : State) : Out :=
  let c := s.evt.core
  match s.putOff c true .ringRecordWrite with
  | some t => .next t
  | none =>
    let s := s.openWindows
    let waiting := (s.core c).ringOut ++ (match s.evt.load with | .record r => [r] | _ => [])
    .next ((s.fillRing c waiting).enterIfIdle c (s.evt.k == 1))

/-- The handler starts at `SVENT.ENTRY` with the task-start values (R369). -/
def execSupervisorHandlerEntry (s : State) : Out :=
  let c := s.evt.core
  if (s.prim c).mode != .capturing then .next s
  else
    let s := (s.taskStart c).modCtl c fun k => { k with svAct := true }
    let s := s.modPrim c fun p => { p with pc := (s.core c).ctl.svent, entryFrom := some (BitVec.allOnes 64), mode := .running }
    .next (s.after 1 1 .bundleFetch (EvArg.ofCore c))

/-- The management controller restarts a supervisor's primary (R518): the notice is logged, a captured context is gone (log 16), and
the program starts at its handler's entry, or from its start while the ring was off. -/
def execSupervisorRestart (s : State) : Out :=
  let c := s.evt.core
  let s := match s.evt.load with
    | .record r => s.modSvc fun v => { v with log := v.log ++ [r] }
    | _ => s
  let on := (s.core c).ctl.svrb.getLsbD 63
  let prog := s.term.service.current.map Firmware.supervisor
  let s := s.modCore c fun x =>
    { x.returnWay 15 with cap := none, ctl := { x.ctl with svAct := false }, code := if on then x.code else (prog.map Program.code).getD [] }
  let s := (s.dropIssue c).taskStart c
  let s := s.modPrim c fun p =>
    { p with pc := if on then (s.core c).ctl.svent else (prog.map Program.entry).getD 0, entryFrom := some (BitVec.allOnes 64),
             mode := .running, fault := none, hold := none }
  .next (s.after 1 1 .bundleFetch (EvArg.ofCore c))

/-! ## The supervisor window (R269 to R271) -/

/-- A thread operand: its core and thread, if its fields are in order and the core lies on the issuer's die (R269). -/
def State.target (s : State) (w : Word) : Option (CoreId × Thr) :=
  let core := Word.bits w 0 10
  let num := Word.bits w 10 3
  let scv := w.getLsbD 13
  if Word.bits w 14 50 ≠ 0 ∨ !isCore core ∨ core / 256 ≠ s.iss.core.val / 256 ∨ (!scv ∧ num ≠ 0) then none
  else some (coreOfNat core, if scv then .scav ⟨num % 8, Nat.mod_lt _ (by decide)⟩ else .prim)

/-- The record of a thread that may be looked at or resumed (R269). -/
def State.openFault (s : State) (c : CoreId) (t : Thr) : Option FaultRec :=
  let f := match t with
    | .prim => if (s.prim c).mode = PMode.halted then (s.prim c).fault else none
    | .scav k => if (s.scav c k).st = ScavSt.halted then (s.scav c k).fault else none
  f.filter fun r => r.received

/-- Whether a selector names something that a thread has (R270); a scavenger's `PORTQ` may be written (R446). -/
def selOk (t : Thr) (write : Bool) (w : Word) : Bool :=
  let n := selNum w
  let d := selDw w
  let lim := fun (a b : Nat) => decide (n < a) && decide (d < b)
  Word.bits w 28 36 == 0 &&
  match t, selFile w with
  | .prim, 0 => lim 64 1
  | .prim, 1 => lim 16 1
  | .prim, 2 => lim 64 64
  | .prim, 3 => lim 16 8
  | .prim, 4 => lim 32 128
  | .prim, 5 => lim 4 256
  | .prim, 6 => lim 10 64
  | .prim, 7 => (ctlAcc n).isSome && d == 0
  | .scav k, 7 => d == 0 && (n == 0x004 || n == 0x005 || n == 0x010 || n == 0x011 || n == 0x040 + k.val || write && n == 0x00A)
  | _, 8 => lim 1 4096
  | .scav _, 9 => lim 32 1
  | _, 10 => lim 1 1
  | _, _ => false

/-- One doubleword of a value of any width. -/
def dwOf {w : Nat} (x : BitVec w) (d : Nat) : Word := x.extractLsb' (64 * d) 64

/-- Replace one doubleword of a value. -/
def setDw {w : Nat} (x : BitVec w) (d : Nat) (y : Word) : BitVec w :=
  (x &&& ~~~((BitVec.allOnes 64).setWidth w <<< (64 * d))) ||| (y.setWidth w <<< (64 * d))

/-- A doubleword of a fault record (R370, R371). -/
def FaultRec.word (r : FaultRec) (c : CoreId) (t : Thr) (d : Nat) : Word :=
  if d < 8 then vget (recordNotice c t r) d
  else if d = 8 then r.cw2.setWidth 64
  else if d = 9 then r.elem.setWidth 64
  else if d < 16 then 0
  else if d < 656 then ((r.latches[(d - 16) / 64]?).map fun v => dwOf v ((d - 16) % 64)).getD 0
  else ((r.flight.flatMap Flight.words)[d - 656]?).getD 0

/-- Read a doubleword of a thread's state (R270, R271). -/
def State.windowRead (s : State) (c : CoreId) (t : Thr) (r : FaultRec) (w : Word) : Word :=
  let n := selNum w
  let d := selDw w
  let g := (s.prim c).regs
  match selFile w with
  | 0 => g.rdS (BitVec.ofNat 6 n)
  | 1 => if g.rdP n then 1 else 0
  | 2 => dwOf (g.rdV (BitVec.ofNat 6 n)) d
  | 3 => dwOf (g.rdK (BitVec.ofNat 6 n)) d
  | 4 => dwOf (g.rdA n) d
  | 5 => dwOf (vget g.b n) d
  | 6 => dwOf (g.rdLatch n) d
  | 7 => s.readCtl c t n
  | 8 => r.word c t d
  | 9 => match t with | .scav k => s.rdH c k (BitVec.ofNat 6 n) | .prim => 0
  | _ => match t with
    | .prim => s.resumeAt c r
    | .scav k => (s.scav c k).pc

/-- A result in flight does not reach its register any more; its latch landing stays (R271). -/
def Flight.barred (f : Flight) : Option Flight :=
  if f.nw || f.rcd = 0 then some f else if f.lcd = 0 then none else some { f with rcd := 0, nw := true }

/-- A write replaces the results in flight to the same register (R271). -/
def Prim.replaceFlight (p : Prim) (file n d : Nat) (x : Word) : Prim :=
  let hit := fun (f : Flight) => match file, f.file with
    | 0, .s | 2, .v | 3, .k | 1, .p => f.reg.toNat == n
    | 4, .tileHalf => f.reg.toNat == n && f.half == decide (64 ≤ d)
    | 7, .ctl => f.creg.toNat == n
    | _, _ => false
  { p with flight := p.flight.filterMap fun f =>
      if file = 6 then
        (if f.slot = n ∧ f.lcd ≠ 0 then (if f.rcd = 0 then none else some { f with lcd := 0 }) else some f)
      else if file = 1 ∧ f.file = .pAll ∧ f.rcd ≠ 0 then
        some { f with val := if x.getLsbD 0 then f.val ||| (1#4096 <<< n) else f.val &&& ~~~(1#4096 <<< n) }
      else if hit f then f.barred else some f }

/-- Write a doubleword of a thread's state (R271). -/
def State.windowWrite (s : State) (c : CoreId) (t : Thr) (w x : Word) : State :=
  let n := selNum w
  let d := selDw w
  let file := selFile w
  let s := match t with
    | .prim => s.modPrim c fun p => { p.replaceFlight file n d x with regErr := p.regErr.filter fun e => e.setWidth 28 != w.setWidth 28 }
    | .scav _ => s
  let g := (s.prim c).regs
  let regs := fun (f : Regs → Regs) => s.modRegs c f
  match file with
  | 0 => regs fun g => g.wrS (BitVec.ofNat 6 n) x
  | 1 => regs fun g => g.wrP n (x.getLsbD 0)
  | 2 => regs fun _ => g.wrV (BitVec.ofNat 6 n) (setDw (g.rdV (BitVec.ofNat 6 n)) d x)
  | 3 => regs fun _ => g.wrK (BitVec.ofNat 6 n) (setDw (g.rdK (BitVec.ofNat 6 n)) d x)
  | 4 => regs fun _ => g.wrA n (setDw (g.rdA n) d x)
  | 5 => regs fun g => { g with b := vset g.b n (setDw (vget g.b n) d x) }
  | 6 => regs fun g => g.wrLatch n (setDw (g.rdLatch n) d x)
  | 7 =>
    let s := match t with
      | .prim => s
      | .scav k => if n = 0x040 + k.val then s.modScav c k fun p => { p with fault := p.fault.map fun (r : FaultRec) => { r with moved := true } } else s
    s.landCtl c t n x
  | 9 => match t with
    | .scav k => (s.wrH c k (BitVec.ofNat 6 n) x).useSpans c (s.sbt c) s.cycle [(hAddr (s.scav c k).wp (BitVec.ofNat 6 n), 8)]
    | .prim => s
  | _ => match t with
    | .prim => s.modPrim c fun p =>
        { p with pc := x, entryFrom := some (BitVec.allOnes 64), replay := 0, omitAt := none
                 fault := p.fault.map fun (r : FaultRec) => { r with moved := true } }
    | .scav k => s.modScav c k fun p =>
        { p with pc := x, entryFrom := some (BitVec.allOnes 64), omitAt := none
                 fault := p.fault.map fun (r : FaultRec) => { r with moved := true } }

/-- The fault of a window write: a read-only target, a resume address out of alignment, or a control register's own rule (R271). -/
def State.windowBad (s : State) (c : CoreId) (w x : Word) : Option (BitVec 8 × Word) :=
  match selFile w with
  | 8 => some (codeILLOP, s.issWords)
  | 10 => if x.toNat % 4 ≠ 0 then some (codeALIGN, x) else none
  | 7 => if ctlAcc (selNum w) = some .ro then some (codeILLOP, s.issWords) else s.mtcBad c (selNum w) x s.issWords
  | _ => none

/-- An operation of the injection buffer that has no tag sets out in the first free cycle of the slot, and takes effect after its way at the
core and thread of its arguments; it is acknowledged after its round trip (R218, R396). -/
def State.post (s : State) (way : Nat) (arg : EvArg) : State :=
  let c := s.iss.core
  let w := s.slotWait c
  let p := { s.newPend c s.iss.thr .svres with tag := 64, id := (s.core c).nextId }
  (((s.useSlot c 1).modCore c fun x => { x with inj := x.inj ++ [p], nextId := x.nextId + 1 }).after (w + 2 * way) 0 .engineOperationComplete
    { argId c p.id with k := 1 }).afterWay (w + way) 2 .contextResume { arg with id := p.id }

/-- Whether an operation of the same supervisor that was issued earlier has still to take effect on a thread (R218). -/
def State.earlierPost (s : State) (c : CoreId) (t : Thr) : Bool :=
  s.agenda.any fun i => i.what == .contextResume && i.arg.core == c && i.arg.thr == t && i.arg.dw == s.evt.dw && i.arg.k != 5 &&
    decide (2 ≤ i.arg.k) && decide (i.arg.id < s.evt.id)

/-- Whether a block-table entry of the target is busy: the write waits as an `MTC` does (R314). -/
def State.windowBusy (s : State) (c : CoreId) (w : Word) : Bool :=
  selFile w == 7 && decide (0x100 ≤ selNum w) && decide (selNum w ≤ 0x13F) && (vget (s.sbt c) (selNum w - 0x100)).getLsbD 61

/-- How long an operand guard holds a write of a scavenger's register (R202). -/
def State.windowHold (s : State) (c : CoreId) (t : Thr) (w : Word) : Nat :=
  match t, selFile w with
  | .scav k, 9 => guardRelease (s.core c) (s.sbt c) (s.clock c) (hAddr (s.scav c k).wp (BitVec.ofNat 6 (selNum w))) 8 - s.clock c
  | _, _ => 0

/-- A supervisor's operation reaches a halted thread (R271, R272): the thread resumes or ends under its record, or its state is written. A write
of a busy block-table entry waits (R314), one of a guarded span is held (R202), and what was issued after it waits with it (R218). -/
def State.atThread (s : State) (c : CoreId) (t : Thr) : State :=
  match s.putOff c true .contextResume with
  | some u => u
  | none =>
    let fault := match t with | .prim => (s.prim c).fault | .scav k => (s.scav c k).fault
    match fault.filter fun r => r.stamp == s.evt.dw with
    | none => s
    | some r =>
      if s.earlierPost c t then s.after 1 2 .contextResume s.evt
      else if s.evt.k = 6 then
        match s.evt.load with
        | .words (sel :: x :: _) =>
          if s.windowBusy c sel then s.after 1 2 .contextResume s.evt
          else if s.windowHold c t sel ≠ 0 then s.after (s.windowHold c t sel) 2 .contextResume s.evt
          else s.windowWrite c t sel x
        | _ => s
      else if r.received then s
      else match t with
        | .prim => if s.evt.k = 4 then s.endUnit c else s.resumePrim c r (s.evt.k == 3) 1
        | .scav k => if s.evt.k = 4 then s.endCodelet c k else s.resumeScav c k r (s.evt.k == 3)

/-- A resume (R272, R383, R384): with `k` = 0 the frame of a handler entry after `ERET`, with 1 the captured context of launch `n` that
its Roundhouse resumes, with 2 to 4 a halted thread by `SVRES.ret`, `.skip` or `.end`, whose record's stamp is in `dw`, with 5 the context of a migration
(R511); with 6 a posted write of a halted thread's state arrives (R271). What reaches a thread of a frozen core is held (R263). -/
def execContextResume (s : State) : Out :=
  let c := s.evt.core
  if 2 ≤ s.evt.k ∧ s.evt.k ≠ 5 then .next (s.atThread c s.evt.thr)
  else if (s.prim c).mode != .capturing then .next s
  else
    match (if s.evt.k = 5 then (s.core c).cap else (s.core c).captured (if s.evt.k = 1 then some s.evt.n else none)) with
    | none => .next ((s.modPrim c fun p => { p with mode := .idle }).offerTo c)
    | some k =>
      let d := k.keep.frameCycles
      if s.evt.id = 0 ∧ 160 < d then .next (s.after (d - 160) 1 .contextResume { s.evt with id := 1 })
      else
        let pres := BitVec.ofNat 10 (s.frameDw c k 0x11E18 / 2 ^ 16)
        let done := BitVec.ofNat 10 (s.frameDw c k 0x11E18)
        let moved := BitVec.ofNat 64 (s.frameDw c k 0x11E00) != k.back
        let s := s.restore c k
        let s := if s.evt.k = 0 then
            (s.modCtl c fun x => { x with svAct := false }).after 0 2 .ringRecordWrite (EvArg.ofCore c)
          else s
        if k.idle then .next (s.modPrim c fun p => { p with mode := .idle })
        else match k.keep.fault with
          | some r => .next (s.resumePrim c { r with pres := pres, done := done, moved := r.moved || moved } false 1)
          | none =>
            if k.keep.task.any fun t => !t.body then
              .next (((s.modPrim c fun p => { p with mode := .entering }).startTicks c).after 1 1 .bodyEntry (EvArg.ofCore c))
            else .next ((s.modPrim c fun p => { p with replay := if moved then 0 else pres &&& ~~~done }).after 1 1 .bundleFetch (EvArg.ofCore c))

/-- The fault of an `SVWIN` in the order of R250: its limits, then the privilege, then the state of the thread named. -/
def State.svwinBad (s : State) (op : Op) : Option (BitVec 8 × BitVec 8 × Word) :=
  let sel := s.valS op.c op.lc
  let wr := op.x12.getLsbD 0
  match s.target (s.valS op.a op.la) with
  | none => some (codeILLOP, 0, s.issWords)
  | some (c, t) =>
    if !selOk t wr sel then some (codeILLOP, 0, s.issWords)
    else match (if wr then s.windowBad c sel (s.valS op.b op.lb) else none) with
      | some b => some (b.1, 0, b.2)
      | none => if !s.privileged || (s.openFault c t).isNone then some (codePROT, 6, 0) else none

/-- Read or write a halted thread's state (R269 to R271): a read holds its bundle for the round trip, a write is posted and takes effect when
it arrives. -/
def execSvwin (op : Op) (s : State) : Out :=
  perform op s fun s =>
    match s.svwinBad op, s.target (s.valS op.a op.la) with
    | some b, _ => s.raise b.1 b.2.1 b.2.2 0
    | none, none => s
    | none, some (c, t) =>
      match s.openFault c t with
      | none => s
      | some r =>
        let sel := s.valS op.c op.lc
        let way := s.oneWay s.iss.core c
        if op.x12.getLsbD 0 then
          if s.windowBusy c sel then s.block false s.qLimit codeQSTALL 7
          else if 16 ≤ (s.core s.iss.core).inj.length then s.denied 5
          else s.post way { argThr c t with k := 6, dw := r.stamp, load := .words [sel, s.valS op.b op.lb] }
        else match (s.core s.iss.core).inj.find? fun p => p.kind == .svres && p.ws == [1] && p.a == s.valS op.a op.la && p.c == sel with
          | none =>
            if 16 ≤ (s.core s.iss.core).inj.length then s.denied 5
            else State.block { s with iss := { s.iss with sends := some (way, s.valS op.a op.la, sel) } } false s.qLimit codeQSTALL 7
          | some p =>
            if s.clock s.iss.core < p.bound then s.block false s.qLimit codeQSTALL 7
            else s.putS op 1 0 (s.windowRead c t r sel)

/-- Resume a halted thread (R272): the mode takes effect at its core, and the record is given up. -/
def execSvres (op : Op) (s : State) : Out :=
  perform op s fun s =>
    match s.target (s.valS op.a op.la) with
    | none => s.raise codeILLOP 0 s.issWords 0
    | some (c, t) =>
      if !s.privileged then s.raise codePROT 6 0 0
      else match s.openFault c t with
        | none => s.raise codePROT 6 0 0
        | some r =>
          if 16 ≤ (s.core s.iss.core).inj.length then s.denied 5
          else
            let way := s.oneWay s.iss.core c
            let gone := fun (f : Option FaultRec) => f.map fun q => { q with received := false }
            let s := match t with
              | .prim => s.modPrim c fun p => { p with fault := gone p.fault }
              | .scav k => s.modScav c k fun x => { x with fault := gone x.fault }
            s.post way { argThr c t with k := 2 + op.xbits 0 2, dw := r.stamp }

/-- The cycles until every buffer of the package has acknowledged (R273). -/
def State.farthestBuffer (s : State) (c : CoreId) : Nat :=
  (List.range 1024).foldl (fun m i => if isCore i then max m (2 * s.oneWay c (coreOfNat i)) else m) (2 * s.toTerminus c)

/-- Invalidate translation-buffer entries of the whole package (R273). -/
def execXlinv (op : Op) (s : State) : Out :=
  perform op s fun s =>
    let p := s.pendOf op .xlinv
    let all := op.x12.getLsbD 0
    let bad := firstBad [s.illop (if all then p.a != 0 || p.b != 0 else Word.bits p.b 2 62 != 0),
      if all then none else s.gloBad [2, 3, 4, 5, 6, 8] false p.a 8]
    s.checked bad fun s =>
      if !s.privileged then s.raise codePROT 6 0 0
      else s.inject none p fun s e => s.sendOut (s.farthestBuffer s.iss.core) 0 .engineOperationComplete e

/-! ## The block table's steps (R313, R314) -/

/-- A write with `OP` 0: entry `n` takes `V` and `PBLK` of `dw`. -/
def execSbtMap (s : State) : Out := .next (s.sbtMapTo s.evt.core s.evt.n s.evt.dw)

/-- A spill of entry `n` to the way of `dw`. -/
def execSbtSpill (s : State) : Out := .next (s.sbtMove s.evt.core s.evt.n s.evt.dw true)

/-- A fill of entry `n` from the way of `dw`. -/
def execSbtFill (s : State) : Out := .next (s.sbtMove s.evt.core s.evt.n s.evt.dw false)

/-- A spill (`k` = 1) or a fill ends (R314): `BSY` clears, `SP` says where the block is, and a fill's way caches again. -/
def execSpillFillDone (s : State) : Out :=
  let c := s.evt.core
  let e := vget (s.sbt c) s.evt.n
  let s := if s.evt.k = 1 then s else s.modCore c fun x => x.returnWay (Word.bits e 8 4)
  .next (s.setSbt c s.evt.n (sbtWord (e.getLsbD 63) (s.evt.k == 1) false (Word.bits e 8 4) (Word.bits e 0 6)))

end Sys2Proof.Machine
end

