-- ==== Sys2Proof/Machine/Flowstone.lean ====
section
/-! DEFINITION. The Flowstone layer: checkpoints (R263 to R265, R457 to R464), power loss and resume (R465 to R470, R501), and power
gating (R472, R473). -/

namespace Sys2Proof.Machine

open Sys2Proof

/-- Every byte of a core's scratchpad reads zero, every full-empty bit is full, no cell is in error. -/
def State.clearScratch (s : State) (c : CoreId) : State :=
  let lo := scratchKey c 0
  let hi := lo + 2 ^ 21
  { s with mem := s.mem.filter fun q => !(decide (lo ≤ q.1) && decide (q.1 < hi))
           empty := s.empty.filter fun d => !(decide (lo / 8 ≤ d) && decide (d < hi / 8))
           spoilt := s.spoilt.filter fun k => !(decide (lo ≤ k) && decide (k < hi)) }

/-! ## The writes of a checkpoint (R461, R463, R465) -/

/-- One Flowstone record: its time in seventeenths of a ns, and its bytes with their offsets, in the order in which they are written. -/
structure FlowStep where
  dur : Nat
  writes : List (Nat × List Byte)

/-- The lines of each round (R463). -/
def rounds : Nat → List Nat → List (List Nat)
  | 0, l => [l]
  | n + 1, l => if l.length ≤ 2048 then [l] else l.take 2048 :: rounds n (l.drop 2048)

/-- A capture slot's frame (R457): no cause belongs to a checkpoint, and nothing of its bundle is owed. -/
def Snap.frame (q : Snap) (stamp : Word) : List Byte :=
  (List.range 160).flatMap (q.prim.frameVec ⟨q.prim.pc, q.sbt, q.qlimit, q.felimit, 0, 0, 0, stamp⟩)

/-- Bytes in records of 512. -/
def in512 (off : Nat) (bs : List Byte) : List (Nat × List Byte) :=
  (List.range ((bs.length + 511) / 512)).map fun i => (off + 512 * i, (bs.drop (512 * i)).take 512)

/-- The records of the capture phase share its 1,975 ns equally (log 17). -/
def shareTime (ws : List (Nat × List Byte)) : List FlowStep :=
  let n := ws.length
  ws.zipIdx.map fun w => ⟨33575 * (w.2 + 1) / n - 33575 * w.2 / n, [w.1]⟩

/-- Log entries: each line's data with its tag word, 15 ns. -/
def logSteps (seq : Nat) (ls : List (Nat × List Byte × BitVec 8)) : List FlowStep :=
  ls.zipIdx.map fun q => ⟨255, [(flowData q.2, q.1.2.1), (flowTag q.2, natToBytes 8 (tagWord seq q.1.1 q.1.2.2))]⟩

/-- Lines applied to the shadow, 5 ns each. -/
def applySteps (ls : List (Nat × List Byte × BitVec 8)) : List FlowStep := ls.map fun l => ⟨85, applyLine l⟩

/-- The bytes that the `LCRC` of a checkpoint covers (R460). -/
def logCovered (seq : Nat) (ls : List (Nat × List Byte × BitVec 8)) (ext : List Byte) : List Byte :=
  (ls.flatMap fun l => natToBytes 8 (tagWord seq l.1 l.2.2)) ++ (ls.flatMap fun l => l.2.1) ++ ext

/-- The commit record of a checkpoint (R460); an `OPEN` record carries no log. -/
def Ckpt.record (k : Ckpt) (q : Snap) (log : Option (List (Nat × List Byte × BitVec 8))) : Commit :=
  let ls := log.getD []
  let ext := q.prim.extension
  { seq := k.seq, isOpen := log.isNone, rounds := (rounds 16 k.lines).length, dirty := k.lines.length, nlog := ls.length, stamp := k.stamp
    extLen := if log.isNone then 0 else ext.length
    lcrc := if log.isNone then 0 else crc32c (logCovered k.seq ls ext)
    ccrc := if log.isNone then 0 else crc32c (q.frame k.stamp) }

/-- The records of a checkpoint in their order (R461, R463): capture slot and extension, with the `OPEN` record of a checkpoint of several
rounds before or after them (log 17), the rounds, the commit record, its application and the mark. -/
def State.flowSteps (s : State) (c : CoreId) (k : Ckpt) (q : Snap) : List FlowStep :=
  let rs := (rounds 16 k.lines).map fun r => r.map fun n => s.lineOf c n
  let last := rs.getLastD []
  let capture := in512 (flowCapture k.seq) (q.frame k.stamp) ++ in512 (flowExt k.seq) q.prim.extension
  let opened := if rs.length ≤ 1 then [] else [(flowRecord k.seq, (k.record q none).bytes)]
  shareTime (if Config.freeBool s.free then opened ++ capture else capture ++ opened) ++
    (rs.dropLast.flatMap fun r => logSteps k.seq r ++ applySteps r) ++ logSteps k.seq last ++
    [⟨340, [(flowRecord k.seq, (k.record q (some last)).bytes)]⟩] ++ applySteps last ++
    [⟨85, [(flowRecord k.seq + 0x30, natToBytes 8 (2 ^ 63))]⟩]

/-- A record is written. -/
def State.doFlow (s : State) (c : CoreId) (st : FlowStep) : State := st.writes.foldl (fun s w => s.writeFlow c w) s

/-- A record is torn after some of its time: the bytes written so far stand, how many is open (R465), but no more than that share of its bytes
(log 127). -/
def State.tearFlow (s : State) (c : CoreId) (st : FlowStep) (past : Nat) : State :=
  let n := Config.freeLatency s.free % ((st.writes.map fun w => w.2.length).sum * past / st.dur + 1)
  (st.writes.foldl (fun (r : Nat × State) w => (r.1 - w.2.length, r.2.writeFlow c (w.1, w.2.take r.1))) (n, s.tickFree)).2

/-- The area after some time: `t` and `e` count seventeenths of a ns. At a warning, a record with at most 5 ns left is finished (R465); at a
failing write (`fail`), the record in progress is not (R464). -/
def runFlow (c : CoreId) (fail : Bool) : List FlowStep → Nat → Nat → State → State
  | [], _, _, s => s
  | st :: l, t, e, s =>
    if e < t then s
    else if t + st.dur ≤ e then runFlow c fail l (t + st.dur) e (s.doFlow c st)
    else if !fail && decide (t + st.dur ≤ e + 85) then s.doFlow c st
    else s.tearFlow c st (e - t)

/-- The part of a checkpoint's capture that has no layout goes to its slot, which counts as it reads (log 20). -/
def State.openSlot (s : State) (c : CoreId) (k : Ckpt) : State :=
  s.modCore c fun x => { x with flow := { snaps := vset x.flow.snaps k.seq k.snap, fates := vset x.flow.fates k.seq .stands } }

/-- The area with every record of a checkpoint written. -/
def State.flowWhole (s : State) (c : CoreId) (k : Ckpt) : State :=
  match k.snap with
  | none => s
  | some q => ((s.flowSteps c k q).foldl (fun s st => s.doFlow c st) (s.openSlot c k)).tickFree

/-- The area as a warning or a failing write leaves it now. -/
def State.flowNow (s : State) (c : CoreId) (k : Ckpt) (fail : Bool) : State :=
  match k.snap with
  | none => s
  | some q => (runFlow c fail (s.flowSteps c k q) 0 (10 * (s.cycle - k.began)) (s.openSlot c k)).tickFree

/-- The ns of a checkpoint's steps 3 to 6 (R264). -/
def Ckpt.ns (k : Ckpt) : Nat := 2000 + 20 * k.lines.length

/-- The ends of the phases of a checkpoint, in ns (R461, R463). -/
def Ckpt.phaseEnds (k : Ckpt) : List Nat :=
  let rs := (rounds 16 k.lines).map List.length
  let body := rs.dropLast.flatMap fun n => [15 * n, 5 * n]
  let n := rs.getLastD 0
  ((1975 :: body ++ [15 * n, 20, 5 * n, 5]).foldl (fun (r : List Nat × Nat) d => (r.1 ++ [r.2 + d], r.2 + d)) ([], 0)).1

/-- The mesh cycle in which some ns of a checkpoint have passed: they convert to cycles of the tile's clock (R264, R521). -/
def State.ckptAt (s : State) (c : CoreId) (k : Ckpt) (ns : Nat) : Nat :=
  s.meshAt c (k.heldAt + (ns * (s.tile (s.tileOf c)).freq + 9) / 10)

/-! ## Freezing (R263) -/

/-- Whether an operation without a memory access would wait now (R234, R445, R522). -/
def State.wouldWait (s : State) (c : CoreId) (k : Fin 8) (w : Win) (o : IssOp) (op : Op) : Bool :=
  let t := s.performWin c k w o false
  let r : Out := match o.instr with
    | .fence x => execFence x t
    | .xdfence x => execXdfence x t
    | .xfence x => execXfence x t
    | .drain x => execDrain x t
    | .pfence x => execPfence x t
    | .pop x => execPop x t
    | .popt x => execPopt x t
    | .twaita x => execTwaita x t
    | .twaity x => execTwaity x t
    | .cntw x => execCntw x t
    | _ => .next (t.withPops op fun u => u)
  match r with
  | .next u => u.iss.again
  | _ => false

/-- Whether a scavenger's operation in flight completes when the barrel freezes: its memory access has performed, or it has none and no
wait (R263). -/
def State.completes (s : State) (c : CoreId) (k : Fin 8) (w : Win) : Bool :=
  w.done || (match w.op with
    | none => false
    | some o =>
      let op := (o.instr.op?).getD ⟨true, .none, 0, false, false, 0, 0, 0, 0, false, false, false, 0, 0, 0⟩
      !w.late && ((s.performWin c k w o true).memAccess k o.instr op w.extra).isNone && !s.wouldWait c k w o op)

/-- The other operations of scavengers have made no change: their threads stand at them, ready (R263). -/
def State.unwaitScavs (s : State) (c : CoreId) : State :=
  (List.finRange 8).foldl (fun (s : State) k =>
    let x := s.scav c k
    let drop := fun (s : State) => s.dropItems fun i => i.arg.core == c && i.arg.thr == .scav k &&
      (i.what == .scavengerAccessRetry || i.what == .qstall || i.what == .fewait || i.what == .portstall)
    match x.win with
    | some w =>
      if s.completes c k w then s
      else
        let s := ((drop s).unread c k w).modScav c k fun x => { x with st := w.after, win := none, wait := none, marks := [], ask := none }
        if w.op.isNone then s.atTurn c k (s.clock c + 1) 4 .wpSwitch else s
    | none => if x.st = .ready then (drop s).modScav c k fun x => { x with wait := none, marks := [] } else s) s

/-- Whether a delivery to a thread is held by the checkpoint (R263). -/
def Core.heldDelivery (x : Core) (k : Fin 8) : Bool := x.held.any fun i => i.what == .deliveryComplete && i.arg.thr == .scav k

/-- Whether an operation or a delivery of a scavenger is still on its way. -/
def Core.scavsBusy (x : Core) : Bool :=
  (List.finRange 8).any fun k =>
    let h := x.scav[k.val]
    h.win.isSome || (match h.st with | .notReady _ => !x.heldDelivery k | _ => false)

/-- The scavengers as a checkpoint captures them: one whose delivery it holds is still a waiting thread, since the message, which is on its way
to it, is not part of the capture (log 124). -/
def Core.snapScavs (x : Core) : Vector Scav 8 :=
  x.scav.mapFinIdx fun i h hi => if x.heldDelivery ⟨i, hi⟩ then { h with st := .waiting, chan := none } else h

/-- The tags that are owed: one entry for each incomplete operation (R265, R458). -/
def Core.owedTags (x : Core) : List (Thr × Nat) :=
  (x.pends.filter fun p => p.kind != .marker && !p.prot && decide (p.tag < 64)).map fun p => (p.thr, p.tag)

/-- A primary past the bundle at which it is captured, unless that bundle ended its body (R263, R467). -/
def State.primPast (s : State) (c : CoreId) : Prim :=
  let p := s.prim c
  if p.endOwed then p else (s.advance c ((s.core c).fetchBundle .prim p.pc none none).next).prim c

/-- The threads are captured, and the dirty lines are known (R263 step 4). The bundle after `PCKPT` reads the sequence number (R265). -/
def State.snapshot (s : State) (c : CoreId) (k : Ckpt) (gating : Bool) : State :=
  let x := s.core c
  let seq := s.newestCommit c + 1
  let past := s.primPast c
  let prim := if gating then x.prim
    else { past with flight := past.flight ++ [mkFlight 9 .s k.dst false 1 true 0 (Word.toVec (BitVec.ofNat 64 seq))] }
  let q : Snap := { prim := prim, scav := x.snapScavs, owed := x.owedTags, sbt := x.ctl.sbt, qlimit := x.ctl.qlimit, felimit := x.ctl.felimit
                    gating := gating }
  let k := { k with seq := seq, lines := (List.range 32768).filter fun n => x.dirty.getLsbD n, snap := some q }
  (s.modCore c fun x => { x with ckpt := some k }).afterWay (s.ckptAt c k k.ns - s.cycle) 0 .checkpointEnd (EvArg.ofCore c)

/-- Step 3 begins (R263): the barrel freezes; accesses of this cycle perform, and scavengers' operations that complete are waited for. -/
def State.freeze (s : State) (c : CoreId) : State :=
  let s := (s.unwaitScavs c).modCore c fun x => { x with ckpt := x.ckpt.map fun k =>
    { k with frozen := true, began := s.cycle, heldAt := s.clock c, stamp := s.tscOf c } }
  s.after 0 4 .checkpointFreeze (EvArg.ofCore c)

/-- `PCKPT` (R263): the bundle's other operations issue with it, and its hold begins after them. -/
def execPckpt (op : Op) (s : State) : Out :=
  perform op s fun s =>
    let c := s.iss.core
    let k : Ckpt := { frozen := false, began := s.cycle, heldAt := s.clock c + 1, stamp := s.tscOf c, dst := op.dst, seq := 0, lines := []
                      failed := false, snap := none }
    s.modCore c fun x => { x with ckpt := some k, prim := { x.prim with mode := .checkpoint } }

/-- The bound of a `PCKPT`'s hold runs out: `QSTALL` with nothing captured (R263). -/
def State.pckptStall (s : State) (c : CoreId) : State :=
  let x := s.core c
  let f := x.fetchBundle .prim x.prim.pc x.prim.entryFrom x.prim.omitAt
  let at_ := ((f.ops.find? fun o => o.slot == 9).map fun o => o.waddr).getD x.prim.pc
  let pres := slotsFilled f.ops
  let s := s.modCore c fun x => { x with ckpt := none }
  s.takeTrap c .prim (s.faultRec c .prim codeQSTALL 0 9 x.prim.pc at_ 4 0 (pres &&& ~~~(1#10 <<< 9)) pres false)

/-- The pre-emption that takes a primary in the drain of its `PCKPT` (R263, R369, R377, R511). -/
def State.drainDue (s : State) (c : CoreId) : Option (BitVec 8) :=
  let x := s.core c
  if s.handlerDue c then some 0x12
  else match x.capReq with
    | some (cause, _) => if s.portsQuiet c then some cause else none
    | none => if x.moveReq.isSome && s.canSave c then some 0x14 else none

/-- The hold of a `PCKPT` (R263): it waits for `Q.MX` within `QLIMIT`; a pre-emption takes the primary with it incomplete; then step 3. -/
def execCheckpointFreeze (s : State) : Out :=
  let c := s.evt.core
  let x := s.core c
  match x.ckpt with
  | none => .next s
  | some k =>
    if k.snap.isSome || x.prim.mode != .checkpoint then .next s
    else if k.frozen then
      .next (if x.scavsBusy then s.after 1 4 .checkpointFreeze (EvArg.ofCore c) else s.snapshot c k false)
    else if x.qmx.isEmpty then .next (s.freeze c)
    else match s.drainDue c with
      | some cause =>
        let s := s.modCore c fun x => { x with ckpt := none }
        .next (if cause = 0x14 then s.beginMove c else s.beginCapture c cause)
      | none =>
        if k.heldAt + x.ctl.qlimit.toNat ≤ s.clock c then .next (s.pckptStall c)
        else .next (s.after 1 1 .checkpointFreeze (EvArg.ofCore c))

/-- The accesses held at a core's network interface go on, in their order of arrival (R263, R511). -/
def State.releaseHeld (s : State) (c : CoreId) : State :=
  let l := (s.core c).held
  let s := s.modCore c fun x => { x with held := [] }
  { s with agenda := l.foldl (fun a i => insertItem a { i with due := s.cycle }) s.agenda }

/-- A checkpoint ends (R263 to R265): it is committed and applied, or it has failed; the register receives its number or 0, the
primary goes on past its bundle, held accesses perform, and the dispenser looks at the core again (R299). -/
def execCheckpointEnd (s : State) : Out :=
  let c := s.evt.core
  match (s.core c).ckpt with
  | none => .next s
  | some k =>
    let s := if k.failed then s else s.flowWhole c k
    let s := s.modCore c fun x => { x with ckpt := none, dirty := if k.failed then x.dirty else 0 }
    if k.snap.any Snap.gating then .next s
    else
      let v := if k.failed then 0 else k.seq
      let s := s.modPrim c fun p =>
        { p with mode := .running, replay := 0
                 flight := p.flight ++ [mkFlight 9 .s k.dst false 1 true 0 (Word.toVec (BitVec.ofNat 64 v))] }
      .next (((s.goPast c 0).releaseHeld c).after 0 3 .dispatch (EvArg.ofCore c))

/-- A checkpoint's write fails (R464): no further record is written, and the checkpoint ends with its phase, not committed (R265). The
commit before it stays newest or, once a round has been applied, its own `OPEN` record (log 22). -/
def State.failCkpt (s : State) (c : CoreId) : State :=
  match (s.core c).ckpt with
  | none => s
  | some k =>
    if k.snap.isNone || k.failed then s
    else
      let s := s.flowNow c k true
      let applied := decide (2048 < k.lines.length) && decide (17 * (1975 + 20 * 2048) ≤ 10 * (s.cycle - k.began))
      let e := (((k.phaseEnds.map fun n => s.ckptAt c k n).filter fun t => decide (s.cycle < t)).head?).getD s.cycle
      let s := s.dropItems fun i => i.what == .checkpointEnd && i.arg.core == c
      (s.modCore c fun x => { x with ckpt := some { k with failed := true }
                                     flow := { x.flow with fates := vset x.flow.fates k.seq (if applied then .stillOpen else .passedOver) } }).afterWay
        (e - s.cycle) 0 .checkpointEnd (EvArg.ofCore c)

/-! ## Power loss (R465, R501) -/

/-- What goes on of an operation whose thread has lost its power: requests already sent, without a tag (R465). -/
def Pend.goesOn (p : Pend) : Option Pend :=
  let q := { p with tag := 64, prot := true, unit := noUnit }
  match p.kind with
  | .ratom | .decr | .rldf | .rstf | .send | .launch | .cancel | .xlinv | .svres => some q
  | .kvmatch | .kvins | .kvapp | .kvrel | .kvpin | .kvdem | .kvprom => if p.started then some q else none
  | .xcp | .xcp2 | .xsc => if p.writing && p.moves.all (fun m => !isLocal m.dst) then some q else none
  | _ => none

/-- Whether a write or an atomic that a tile had accepted performed before its power was lost is open (R216, R465): a free value decides, for an
access that its home would have let perform. -/
def State.maybePerform (s : State) (i : Item) : State :=
  let c := i.arg.core
  let writes := ((s.core c).pend i.arg.id).all fun p => p.writing || i.what != .remoteAccessAtHome
  if !Config.freeBool s.free || !writes then s.tickFree
  else
    let t := { s with evt := { i.arg with k := if i.what == .remoteAccessAtHome then 3 else 1, n := 1 } }
    let out : Out := match i.what with
      | .ratomAtHome => execRatomAtHome t
      | .decrAtHome => execDecrAtHome t
      | .remoteAccessAtHome => execRemoteAccessAtHome t
      | .scavengerCacheWritebackAck => execScavengerCacheWritebackAck t
      | _ => .next t
    match out with
    | .next t =>
      if (((t.core c).pend i.arg.id).orElse fun _ => (t.core c).net i.arg.id).any Pend.performed then
        { t with evt := s.evt, iss := s.iss }.tickFree
      else s.tickFree
    | _ => s.tickFree

/-- An access that the core had accepted and not answered completes ERROR at its requester (R465); a message or a record that was
held comes again at the tile's edge. -/
def State.failHeld (s : State) (t : Fin 196) (c : CoreId) (i : Item) : State :=
  let r := i.arg.core
  match i.what with
  | .messageArrival | .ringRecordWrite => s.modTile t fun x => { x with edge := x.edge ++ [i] }
  | _ =>
    if r = c then s
    else match i.what, i.arg.thr with
    | .scavengerCacheFill, .scav k => s.uncachedStep r k (s.oneWay c r) none
    | _, _ =>
      let s := s.maybePerform i
      match (s.core r).pend i.arg.id with
      | some p => (s.modPend r p.id fun q => { q with performed := true, err := true }).completeIn r p.id (s.oneWay c r)
      | none => match (s.core r).net i.arg.id with
        | some p => s.cacheFail r p
        | none => s

/-- The port of a home that has begun a request whose step is due past it. -/
def State.servedBy (s : State) (i : Item) : Option PortId :=
  let x := s.core i.arg.core
  if i.arg.k ≠ 1 then none
  else match i.what, x.pend i.arg.id, x.net i.arg.id with
    | .ratomAtHome, some p, _ | .decrAtHome, some p, _ | .fullEmptyRemoteArrival, some p, _ | .scavengerCacheFill, none, some p
    | .scavengerCacheWritebackAck, none, some p => (s.homeOf i.arg.core p.a.toNat).bind s.portOf
    | .remoteAccessAtHome, some _, _ => (s.copyHome i.arg.core i.arg.dw.toNat).bind s.portOf
    | _, _, _ => none

/-- The requests that wait at a core's home ports or have begun there, as the steps that would perform them, and the answers that its interface has
still to send. -/
def State.acceptedAt (s : State) (c : CoreId) : List Item :=
  let x := s.core c
  (x.port.waiting ++ x.vport.waiting).map (fun r => ⟨s.cycle, 2, r.what, r.arg⟩) ++ x.slotQ.map (fun p => ⟨s.cycle, 2, p.what, p.arg⟩) ++
    s.agenda.filter fun i => s.servedBy i == some (.core c) || s.servedBy i == some (.vault c)

/-- Whether a core has still to send the request of an operation: it waits for its time or for the injection slot. -/
def State.unsent (s : State) (c : CoreId) (p : Pend) : Bool :=
  (s.agenda.any fun i => i.what == .remoteAccessAtHome && i.arg.core == c && i.arg.id == p.id && i.arg.k == 5) ||
    (s.core c).slotQ.any fun q => q.arg.core == c && q.arg.id == p.id

/-- A `DECR` whose message was sent by the interface of a core that has lost its power, and whose message has not been answered, completes
ERROR (R465). The message itself, if it has been sent, stands. -/
def State.failMail (s : State) (lost : Mail → Bool) : State :=
  (List.range 1024).foldl (fun s i =>
    let r := coreOfNat i
    (s.core r).inj.foldl (fun s p =>
      if p.kind == .decr && p.mail.any lost then
        (s.modPend r p.id fun q => { q with err := true, mail := none }).completeIn r p.id (max 1 (s.wayInj r p.a.toNat))
      else s) s) s

/-- A core loses its power (R465): the Flowstone record in progress is decided, what it had sent goes on, cache write-backs among it,
accesses that it had accepted fail, and everything else of it is lost. Its translation buffer, which belongs to its network interface,
keeps its entries (log 18). The tile task is remembered for the resume. -/
def State.loseCore (s : State) (t : Fin 196) (c : CoreId) : State :=
  let x := s.core c
  let s := match x.ckpt with
    | some k => if k.failed then s else s.flowNow c k false
    | none => s
  let s := (x.held ++ s.acceptedAt c).foldl (fun s i => s.failHeld t c i) s
  let s := x.park.foldl (fun s e => s.unpark c e true 0) s
  let goesOn := fun (l : List Pend) => (l.filter fun p => !s.unsent c p).filterMap Pend.goesOn
  let s := s.dropItems fun i => i.arg.core == c && isLocalStep i.what
  s.modCore c fun x => Core.rebusy
    { x with prim := { Prim.reset with task := x.prim.task }, scav := Vector.replicate 8 Scav.reset
             qcp := goesOn x.qcp, qga := goesOn x.qga, qco := [], qkv := goesOn x.qkv, inj := goesOn x.inj
             qmx := [], park := [], cache := [], qnet := x.qnet.filter fun p => p.kind == .writeBack, cacheErr := [], waitWake := []
             ring := [], ringOut := [], portUse := [], engUse := [], slotQ := []
             port := { x.port with waiting := [] }, vport := { x.vport with waiting := [] }
             ckpt := none, move := none, moveReq := none, held := [], cap := none, capReq := none, offer := none, durUntil := [], oldBytes := [] }

/-- A migration is abandoned (R513): the identity goes on at its old position. -/
def State.abandonMove (s : State) (c : CoreId) : State :=
  match (s.core c).move with
  | none => s
  | some m =>
    let s := s.dropItems fun i => i.arg.core == c && (i.what == .migration || i.what == .moveCopyEnd)
    let s := ((s.modCore c fun x => { x with move := none, moveReq := none }).releaseHeld c).after 1 3 .dispatch (EvArg.ofCore c)
    if m.swapped then s.offerTo c
    else if (s.prim c).mode != .capturing then s
    else if (s.core c).cap.any fun k => k.cause == 0x14 then s.after 160 1 .contextResume { EvArg.ofCore c with k := 5 }
    else (s.modPrim c fun p => { p with mode := .running }).after 1 1 .bundleFetch (EvArg.ofCore c)

/-- The tile of a position of a die. -/
def tileAt (d : Fin 4) (pos : Nat) : Nat := d.val * 49 + pos / 28 * 7 + pos % 14 / 2

/-- The migrations that a tile's loss of power ends (R513): those to or from it. -/
def State.movesWith (s : State) (t : Fin 196) (lost : List CoreId) : List CoreId :=
  ((List.range 192).map fun i => coreOfNat (256 * (t.val / 49) + i)).filter fun c =>
    !lost.contains c && (s.core c).move.any fun m =>
      (match m.peer with | some d => lost.contains d | none => tileAt (dieOf c) m.dest == t.val)

/-- A tile loses its supply: its dispenser's deque is lost with it. A resume that was under way is broken off. -/
def State.loseTile (s : State) (t : Fin 196) : State :=
  if (s.tile t).supply == .lost then s.dropItems fun i => i.what == .powerGoodResume && i.arg.n == t.val
  else
    let s := s.dropItems fun i => (i.what == .clockStopEnd || i.what == .powerGating || i.what == .gatingEnd || i.what == .tileWake) && i.arg.n == t.val
    let lost := s.tileCores t
    let others := s.movesWith t lost
    let s := lost.foldl (fun s c => s.loseCore t c) s
    let s := others.foldl (fun s c => s.abandonMove c) s
    let s := s.failMail fun m => match m.ni with | .core d => lost.contains d | .vault d => s.homeTile (.vault d) == some t | _ => false
    s.modTile t fun x => { x with supply := .lost, deque := [], stopped := false, bursts := [] }

/-- A core of a module without power keeps its Flowstone area, and, if that holds a state to restore, the code section which resumed threads
run (log 19); nothing else of it is durable (R474). -/
def State.coreWithoutPower (s : State) (c : CoreId) : Core :=
  let x := s.core c
  { Core.reset with
    prim := x.prim, nextId := x.nextId, flow := x.flow, spared := x.spared, code := match s.choose c with | .resume _ => x.code | .none_ _ _ => [] }

/-- The whole module is without power (R501): vaults and sump lose their contents, the Terminus die its tables, and the cores what no checkpoint
holds (R474); the flash and the fuses stay. -/
def State.loseModule (s : State) : State :=
  let v := s.term.service
  { s with
    agenda := s.agenda.filter fun i => i.what == .hostReset || i.what == .powerOnBoot
    mem := s.mem.filter fun q => !(decide (2 * 2 ^ 52 ≤ q.1) && decide (q.1 < 5 * 2 ^ 52)) && decide (q.1 < 9 * 2 ^ 52)
    spoilt := s.spoilt.filter fun k => !(decide (2 * 2 ^ 52 ≤ k) && decide (k < 5 * 2 ^ 52))
    cores := s.cores.mapFinIdx fun i _ h => s.coreWithoutPower ⟨i, h⟩
    term := { Terminus.reset with service := { Service.reset with flash := v.flash, fused := v.fused, fusedKey := v.fusedKey, chain := v.chain } }
    dies := s.dies.map fun d => { d with faults := [] } }

/-- A power-fail warning (R465, R501): of tile `n`, or with `k` = 1 of every tile; then, with `k` = 2, the module's supply ends 20 µs
later. -/
def execPowerFailWarning (s : State) : Out :=
  match s.evt.k with
  | 0 => .next (s.loseTile ⟨s.evt.n % 196, Nat.mod_lt _ (by decide)⟩)
  | 1 => .next (((List.finRange 196).foldl State.loseTile s).after (nsCycles 20000) 0 .powerFailWarning { s.evt with k := 2 })
  | _ => .next s.loseModule

/-! ## Resume (R466 to R470) -/

/-- The log of a commit that was not applied is applied (R466). -/
def State.reapply (s : State) (c : CoreId) (j : Nat) : State :=
  if s.recApplied c j then s
  else ((s.logEntries c (s.recSeq c j)).flatMap applyLine ++ [(flowRecord j + 0x30, natToBytes 8 (2 ^ 63))]).foldl (fun s w => s.writeFlow c w) s

/-- The duration of a resume in tenths of a ns: power-up, reading the shadow, the capture, the re-application (R467). -/
def State.resumeTime (s : State) (c : CoreId) : Nat :=
  let extra := match s.choose c with
    | .resume j => if s.recApplied c j then 0 else 50 * (s.logEntries c (s.recSeq c j)).length
    | .none_ _ _ => 0
  118304 + extra

/-- Tags outstanding at the checkpoint complete LOST (R265, R467). -/
def State.loseTags (s : State) (c : CoreId) : List (Thr × Nat) → State
  | [] => s
  | (t, i) :: l => State.loseTags (s.modTag c t i fun g => g.complete 3 s.tsc s.cycle) c l

/-- The credits between a resumed core and its neighbours (R468). -/
def State.fixCredits (s : State) (c : CoreId) : State :=
  (List.range 4).foldl (fun s d =>
    match s.neighbour c d with
    | none => s
    | some b =>
      let o := opposite d
      let away := fun (s : State) => (s.tile (s.tileOf b)).supply == .lost
      let s := if away s then s
        else
          let s := s.modPrim b fun p => { p with credits := vset p.credits o (8 - (vget (s.prim c).portq d).length) }
          (List.finRange 8).foldl (fun s k => s.modScav b k fun x =>
            { x with credits := vset x.credits o (4 - (vget (s.scav c k).portq d).length) }) s
      let s := s.modPrim c fun p => { p with credits := vset p.credits d (8 - (vget (s.prim b).portq o).length) }
      (List.finRange 8).foldl (fun s k => s.modScav c k fun x =>
        { x with credits := vset x.credits d (4 - (vget (s.scav b k).portq o).length) }) s) s

/-- A restored core goes on (R467): scavengers that take part in the rotation join it, and the primary issues the bundle after its
`PCKPT`; an idle one stays idle (R472). -/
def State.startRestored (s : State) (c : CoreId) (idle : Bool) : State :=
  let s := (List.finRange 8).foldl (fun s k =>
    if (s.scav c k).st == .waiting || (s.scav c k).st == .halted then s
    else
      let s := s.joinBarrel c k
      if (s.scav c k).pendWp.isSome then s.atTurn c k (s.clock c + 1) 4 .wpSwitch else s) s
  let s := s.after 0 3 .dispatch (EvArg.ofCore c)
  if idle then s
  else
    let s := s.modPrim c fun p =>
      { p with mode := .running, replay := 0, hold := none, marks := []
               task := p.task.map fun t => { t with claiming := false } }
    if (s.prim c).endOwed then s.endBody c else s.goOn c 0

/-- A doubleword of the frame and extension of a commit slot (R457, R458). -/
def State.commitDw (s : State) (c : CoreId) (j off : Nat) : Nat :=
  s.flowDw c (if off < 0x14000 then flowCapture j + off else flowExt j + (off - 0x14000))

/-- The number of the resumed checkpoint reads with bit 63 set (R265): its result is the last in slot order. -/
def markResumed : List Flight → List Flight
  | [] => []
  | [f] => [if f.slot = 9 ∧ f.file = .s then { f with val := f.val ||| (1#4096 <<< 63) } else f]
  | f :: l => f :: markResumed l

/-- A core resumes from the commit in a slot (R467): the shadow is read into the scratchpad, the capture and the extension into the core.
A wake owes nothing; after a power loss tags are LOST and credits set (R265, R468). -/
def State.resumeFrom (s : State) (c : CoreId) (j : Nat) (wake : Bool) : State :=
  let s := (s.reapply c j).modCore c fun x => { x with dirty := 0 }
  let s := (List.range 32768).foldl (fun s n =>
    s.putLine c (n, s.readFlow c (flowShadow n) 64, BitVec.ofNat 8 (bytesToNat (s.readFlow c (flowFe n) 1)))) (s.clearScratch c)
  match vget (s.core c).flow.snaps j with
  | none => s
  | some q =>
    let dw := s.commitDw c j
    let p := framePrim dw q.prim q.prim q.prim.pc
    let p := { p with flight := if q.gating then p.flight else markResumed p.flight, mode := if q.gating then .idle else p.mode }
    let sbt : Vector Word 64 := Vector.ofFn fun i : Fin 64 =>
      let w := BitVec.ofNat 64 (dw (0x11A00 + 8 * i.val))
      sbtWord (w.getLsbD 63) (w.getLsbD 62) false (Word.bits w 8 4) (Word.bits w 0 6)
    let code := ((p.task.bind fun t => s.wrec .launch t.launch).map WRec.code).getD (s.core c).code
    let s := s.modCore c fun x => Core.rebusy
      { x with prim := p, scav := q.scav, code := code
               ctl := { x.ctl with sbt := sbt, qlimit := BitVec.ofNat 32 (dw 0x11E38), felimit := BitVec.ofNat 32 (dw 0x11E38 / 2 ^ 32) } }
    let s := if wake then s else (s.loseTags c q.owed).fixCredits c
    s.startRestored c q.gating

/-- A core without a restorable state (R470): its record is sent, its scratchpad and ports are cleared, its unit has ended by
discard, its scavengers wait. -/
def State.noResume (s : State) (c : CoreId) (cause seq : Nat) (good : Word) : State :=
  let rec_ : Rec64 := #v[BitVec.ofNat 64 (c.val * 2 ^ 16 + cause * 2 ^ 8 + 0x23), BitVec.ofNat 64 seq, good, 0, 0, 0, 0, 0]
  let s := (s.sendRecord c (dieOf c) rec_).clearScratch c
  let s := (List.range 4).foldl (fun s d =>
    match s.neighbour c d with
    | none => s
    | some b =>
      let o := opposite d
      let s := s.modPrim b fun p => { p with portq := vset p.portq o [], credits := vset p.credits o 8 }
      (List.finRange 8).foldl (fun s k => s.modScav b k fun x => { x with portq := vset x.portq o [], credits := vset x.credits o 4 }) s) s
  let task := (s.prim c).task
  let s := s.modCore c fun x => Core.rebusy { x with prim := { Prim.reset with task := task }, scav := Vector.replicate 8 Scav.reset, dirty := BitVec.allOnes 32768 }
  match task with
  | none => s.leaveTask c
  | some t =>
    let s := if t.body then s.after (s.toRoundhouse c (dieOfRec .launch t.launch)) 2 .unitEndReport { EvArg.ofCore c with n := t.launch } else s
    (s.returnChunk c).leaveTask c

/-- A core of a tile whose power is good again restores, or reports that it cannot (R466). -/
def State.restoreCore (s : State) (wake : Bool) (good : Word) (c : CoreId) : State :=
  match s.choose c with
  | .resume j => s.resumeFrom c j wake
  | .none_ cause seq => s.noResume c cause seq good

/-- A tile takes part again: its clock starts with its barrel counter at zero (R34), its cores restore, and the requests parked at its
edge are served in their order (R465, R473). -/
def State.tileOn (s : State) (t : Fin 196) (wake : Bool) (good : Word) : State :=
  let s := s.modTile t fun x => { x with supply := .on, stopped := false, barrel0 := x.clockAt s.cycle }
  let s := (s.tileCores t).foldl (fun s c => s.restoreCore wake good c) s
  let l := (s.tile t).edge
  let s := s.modTile t fun x => { x with edge := [] }
  { s with agenda := l.foldl (fun a i => insertItem a { i with due := s.cycle }) s.agenda }

/-- Power is good again at tile `n` (R466, R467): with `k` = 0 the resume begins, with 1 it has taken its time; `dw` is the `TSC` at power
good (R470). -/
def execPowerGoodResume (s : State) : Out :=
  let t : Fin 196 := ⟨s.evt.n % 196, Nat.mod_lt _ (by decide)⟩
  if (s.tile t).supply != .lost then .next s
  else if s.evt.k = 0 then
    let took := (s.tileCores t).foldl (fun m c => max m (s.resumeTime c)) 118304
    .next (s.after ((s.tile t).lasts s.cycle took - s.cycle) 0 .powerGoodResume { s.evt with k := 1, dw := s.tsc })
  else .next (s.tileOn t false s.evt.dw)

/-! ## Power gating (R472, R473) -/

/-- Whether a core lets its tile be gated (R472). -/
def State.coreIdle (s : State) (c : CoreId) : Bool :=
  let x := s.core c
  x.prim.mode == .idle && x.prim.task.isNone && x.offer.isNone && x.cap.isNone && x.ckpt.isNone && x.move.isNone && x.moveReq.isNone &&
    x.prim.flight.isEmpty && x.pends.isEmpty && x.qmx.isEmpty && x.qnet.isEmpty && x.ring.isEmpty && x.park.isEmpty &&
    s.portsQuiet c && (List.finRange 8).all fun k =>
      let h := s.scav c k
      h.st == .waiting && decide (h.freeFrom ≤ s.clock c) && h.chan.isNone &&
        (List.range 4).all fun d => (vget h.portq d).isEmpty && ((s.neighbour c d).isNone || vget h.credits d == 4)

/-- The power controller gates tile `n` if it is idle (R472): its edge closes; with `k` = 1, once the accesses that it has accepted have
performed, each core writes a gating checkpoint. -/
def execPowerGating (s : State) : Out :=
  let t : Fin 196 := ⟨s.evt.n % 196, Nat.mod_lt _ (by decide)⟩
  let cs := s.tileCores t
  if s.evt.k = 0 then
    if (s.tile t).supply != .on || cs.isEmpty || !(cs.all fun c => s.coreIdle c) then .next s
    else .next ((s.modTile t fun x => { x with supply := .closing }).after 0 0 .powerGating { s.evt with k := 1 })
  else if (s.tile t).supply != .closing then .next s
  else if cs.any fun c => !(s.acceptedAt c).isEmpty then .next (s.after 1 0 .powerGating s.evt)
  else
    let s := s.modTile t fun x => { x with supply := .gating }
    let s := cs.foldl (fun (s : State) c =>
      s.snapshot c { frozen := true, began := s.cycle, heldAt := s.clock c, stamp := s.tscOf c, dst := 0, seq := 0, lines := []
                     failed := false, snap := none } true) s
    let d := cs.foldl (fun m c => match (s.core c).ckpt with | some k => max m (s.ckptAt c k k.ns - s.cycle) | none => m) 0
    .next (s.after d 1 .gatingEnd s.evt)

/-- The wake of a gated tile takes 12 µs (R473, R521). -/
def State.startWake (s : State) (t : Fin 196) : State :=
  s.after ((s.tile t).lasts s.cycle 120000 - s.cycle) 0 .tileWake { EvArg.ofCore 0 with n := t.val, k := 1 }

/-- Gating ends (R472): the supply is removed once every checkpoint is committed; a wake that began meanwhile begins now (R473). The
scavenger caches lose their contents, which are clean (log 18). -/
def execGatingEnd (s : State) : Out :=
  let t : Fin 196 := ⟨s.evt.n % 196, Nat.mod_lt _ (by decide)⟩
  if (s.tile t).supply != .gating then .next s
  else
    let cs := s.tileCores t
    let ok := cs.all fun c => (s.core c).ckpt.isNone && (s.core c).dirty == 0
    if !ok then
      let l := (s.tile t).edge
      let s := s.modTile t fun x => { x with supply := .on, edge := [] }
      .next { s with agenda := l.foldl (fun a i => insertItem a { i with due := s.cycle }) s.agenda }
    else
      let s := s.modTile t fun x => { x with supply := .gated }
      let s := cs.foldl (fun s c => s.modCore c fun x => { x with cache := [], cacheErr := [], oldBytes := [] }) s
      .next (if (s.tile t).edge.isEmpty then s else s.startWake t)

/-- Tile `n` wakes (R473): with `k` = 0 the wake begins, with 1 it has taken its time, and the cores resume from their gating
checkpoints with nothing owed. -/
def execTileWake (s : State) : Out :=
  let t : Fin 196 := ⟨s.evt.n % 196, Nat.mod_lt _ (by decide)⟩
  if (s.tile t).supply != .gated then .next s
  else if s.evt.k = 1 then .next (s.tileOn t true s.tsc)
  else if s.agenda.any fun i => i.what == .tileWake && i.arg.n == t.val && i.arg.k == 1 then .next s
  else .next (s.startWake t)

end Sys2Proof.Machine
end

