-- ==== Sys2Proof/Machine/Crypto.lean ====
section
/-! DEFINITION. The published standards that R9 and R519 name for firmware: SHA-512 (FIPS 180-4) and the verification of an
ECDSA signature on curve P-521 (FIPS 186-5). -/

namespace Sys2Proof.Machine

open Sys2Proof

/-! ## SHA-512 -/

/-- The largest number whose power `k` is at most `n`, found bit by bit below 2^`b`. -/
def rootBits (k n : Nat) : Nat → Nat → Nat
  | 0, r => r
  | b + 1, r => rootBits k n b (if (r + 2 ^ b) ^ k ≤ n then r + 2 ^ b else r)

/-- The first 80 primes. -/
def primes80 : List Nat :=
  [2, 3, 5, 7, 11, 13, 17, 19, 23, 29, 31, 37, 41, 43, 47, 53, 59, 61, 67, 71, 73, 79, 83, 89, 97, 101, 103, 107, 109, 113] ++
  [127, 131, 137, 139, 149, 151, 157, 163, 167, 173, 179, 181, 191, 193, 197, 199, 211, 223, 227, 229, 233, 239, 241, 251, 257] ++
  [263, 269, 271, 277, 281, 283, 293, 307, 311, 313, 317, 331, 337, 347, 349, 353, 359, 367, 373, 379, 383, 389, 397, 401, 409]

/-- The round constants: the first 64 bits of the fractions of the cube roots of the first 80 primes. -/
def shaK : List Word := primes80.map fun p => BitVec.ofNat 64 (rootBits 3 (p * 2 ^ 192) 67 0)

/-- The eight words of a hash value. -/
structure ShaState where
  a : Word
  b : Word
  c : Word
  d : Word
  e : Word
  f : Word
  g : Word
  h : Word
  deriving DecidableEq, Repr

def ShaState.words (x : ShaState) : List Word := [x.a, x.b, x.c, x.d, x.e, x.f, x.g, x.h]

/-- A hash value from its words. -/
def ShaState.ofWords (l : List Word) : ShaState :=
  let w := fun i => (l[i]?).getD 0
  ⟨w 0, w 1, w 2, w 3, w 4, w 5, w 6, w 7⟩

/-- The initial value: the first 64 bits of the fractions of the square roots of the first eight primes. -/
def shaInit : ShaState := ShaState.ofWords ((primes80.take 8).map fun p => BitVec.ofNat 64 (rootBits 2 (p * 2 ^ 128) 67 0))

/-- The exclusive or of three rotations, or of two rotations and a shift. -/
def rot3 (x : Word) (i j k : Nat) : Word := x.rotateRight i ^^^ x.rotateRight j ^^^ x.rotateRight k
def rot2s (x : Word) (i j k : Nat) : Word := x.rotateRight i ^^^ x.rotateRight j ^^^ (x >>> k)

/-- The message schedule, the latest word first: `n` more words. -/
def shaSchedule : Nat → List Word → List Word
  | 0, l => l
  | n + 1, l =>
    let w := fun i => (l[i]?).getD 0
    shaSchedule n ((rot2s (w 1) 19 61 6 + w 6 + rot2s (w 14) 1 8 7 + w 15) :: l)

/-- One round, with its constant and its word of the schedule. -/
def shaRound (x : ShaState) (q : Word × Word) : ShaState :=
  let t1 := x.h + rot3 x.e 14 18 41 + ((x.e &&& x.f) ^^^ (~~~x.e &&& x.g)) + q.1 + q.2
  let t2 := rot3 x.a 28 34 39 + ((x.a &&& x.b) ^^^ (x.a &&& x.c) ^^^ (x.b &&& x.c))
  ⟨t1 + t2, x.a, x.b, x.c, x.d + t1, x.e, x.f, x.g⟩

/-- A number whose bytes stand highest first. -/
def bigEndian (l : List Byte) : Nat := l.foldl (fun n b => 256 * n + b.toNat) 0

/-- The bytes of a number, highest first. -/
def bigBytes (n x : Nat) : List Byte := (natToBytesBig n x []).map (BitVec.ofNat 8)
where
  natToBytesBig : Nat → Nat → List Nat → List Nat
    | 0, _, l => l
    | n + 1, x, l => natToBytesBig n (x / 256) (x % 256 :: l)

/-- One block of 128 bytes. -/
def shaBlock (x : ShaState) (bs : List Byte) : ShaState :=
  let ws := (List.range 16).map fun i => BitVec.ofNat 64 (bigEndian ((bs.drop (8 * i)).take 8))
  let y := (shaK.zip (shaSchedule 64 ws.reverse).reverse).foldl shaRound x
  ShaState.ofWords ((x.words.zip y.words).map fun q => q.1 + q.2)

/-- Blocks of 128 bytes. -/
def shaBlocks : Nat → ShaState → List Byte → ShaState
  | 0, x, _ => x
  | n + 1, x, bs => shaBlocks n (shaBlock x bs) (bs.drop 128)

/-- The SHA-512 digest of a message of bytes. -/
def sha512 (m : List Byte) : BitVec 512 :=
  let pad := (239 - m.length % 128) % 128
  let bs := m ++ 0x80#8 :: (List.replicate pad 0#8 ++ bigBytes 16 (8 * m.length))
  (shaBlocks (bs.length / 128) shaInit bs).words.foldl (fun d w => (d <<< 64) ||| w.setWidth 512) 0

/-! ## Curve P-521 -/

/-- The field's prime, the curve's coefficient b (a is −3), the base point, its order. -/
def ecP : Nat := 2 ^ 521 - 1
def ecB : Nat := 0x51953EB9618E1C9A1F929A21A0B68540EEA2DA725B99B315F3B8B489918EF109E156193951EC7E937B1652C0BD3BB1BF073573DF883D2C34F1EF451FD46B503F00
def ecGx : Nat := 0xC6858E06B70404E9CD9E3ECB662395B4429C648139053FB521F828AF606B4D3DBAA14B5E77EFE75928FE1DC127A2FFA8DE3348B3C1856A429BF97E7E31C2E5BD66
def ecGy : Nat := 0x11839296A789A3BC0045C8A5FB42C7D1BD998F54449579B446817AFBD17273E662C97EE72995EF42640C550B9013FAD0761353C7086A272C24088BE94769FD16650
def ecN : Nat := 0x1FFFFFFFFFFFFFFFFFFFFFFFFFFFFFFFFFFFFFFFFFFFFFFFFFFFFFFFFFFFFFFFFFA51868783BF2F966B7FCC0148F709A5D03BB5C9B8899C47AEBB6FB71E91386409

/-- A difference in the field. -/
def ecSub (x y : Nat) : Nat := (x + (ecP - y % ecP)) % ecP

/-- A point by its Jacobian coordinates; `z` = 0 is the point at infinity. -/
structure EcPoint where
  x : Nat
  y : Nat
  z : Nat
  deriving DecidableEq, Repr

def EcPoint.zero : EcPoint := ⟨1, 1, 0⟩

/-- Twice a point. -/
def EcPoint.double (p : EcPoint) : EcPoint :=
  if p.z = 0 ∨ p.y = 0 then EcPoint.zero
  else
    let yy := p.y * p.y % ecP
    let zz := p.z * p.z % ecP
    let t := 4 * p.x * yy % ecP
    let m := 3 * (ecSub p.x zz) * (p.x + zz) % ecP
    let x := ecSub (m * m) (2 * t)
    ⟨x, ecSub (m * ecSub t x) (8 * yy * yy), 2 * p.y * p.z % ecP⟩

/-- The sum of two points. -/
def EcPoint.add (p q : EcPoint) : EcPoint :=
  if p.z = 0 then q
  else if q.z = 0 then p
  else
    let pz := p.z * p.z % ecP
    let qz := q.z * q.z % ecP
    let u := p.x * qz % ecP
    let v := q.x * pz % ecP
    let s := p.y * qz * q.z % ecP
    let t := q.y * pz * p.z % ecP
    if u = v then (if s = t then p.double else EcPoint.zero)
    else
      let h := ecSub v u
      let r := ecSub t s
      let hh := h * h % ecP
      let uh := u * hh % ecP
      let x := ecSub (r * r) (hh * h + 2 * uh)
      ⟨x, ecSub (r * ecSub uh x) (s * hh * h), h * p.z * q.z % ecP⟩

/-- The sum of multiples i and j of two points, from the `n` low bits down; the third argument is the points' sum. -/
def ecMul2 (p q pq : EcPoint) (i j : Nat) : Nat → EcPoint → EcPoint
  | 0, r => r
  | n + 1, r =>
    let d := r.double
    ecMul2 p q pq i j n (match i.testBit n, j.testBit n with
      | false, false => d
      | true, false => d.add p
      | false, true => d.add q
      | true, true => d.add pq)

/-- A power modulo m, from the `n` low bits of the exponent down. -/
def powMod (a e m : Nat) : Nat → Nat → Nat
  | 0, r => r
  | n + 1, r => powMod a e m n (if e.testBit n then r * r % m * a % m else r * r % m)

/-- Whether two coordinates name a point of the curve. -/
def ecOn (x y : Nat) : Bool :=
  decide (x < ecP) && decide (y < ecP) && y * y % ecP == (ecSub (x * x * x) (3 * x) + ecB) % ecP

/-- Whether a signature (r, s) over a digest verifies with a public key. -/
def ecdsaOk (key : Nat × Nat) (digest : BitVec 512) (sig : Nat × Nat) : Bool :=
  if ecOn key.1 key.2 && decide (0 < sig.1) && decide (sig.1 < ecN) && decide (0 < sig.2) && decide (sig.2 < ecN) then
    let w := powMod sig.2 (ecN - 2) ecN 521 1
    let g : EcPoint := ⟨ecGx, ecGy, 1⟩
    let q : EcPoint := ⟨key.1, key.2, 1⟩
    let r := ecMul2 g q (g.add q) (digest.toNat * w % ecN) (sig.1 * w % ecN) 521 EcPoint.zero
    let zz := r.z * r.z % ecP
    r.z != 0 && (sig.1 * zz % ecP == r.x || (decide (sig.1 + ecN < ecP) && (sig.1 + ecN) * zz % ecP == r.x))
  else false

/-- The bytes of a public key over which its digest is taken: the uncompressed point of SEC 1 (DESIGN CHOICE, log 109). -/
def keyBytes (key : Nat × Nat) : List Byte := 4#8 :: (bigBytes 66 key.1 ++ bigBytes 66 key.2)

end Sys2Proof.Machine
end

