-- ==== Sys2Proof/Machine/Power.lean ====
section
/-! DEFINITION. The package power controller and the management controller: operating points and their clock stops (R502 to R504),
epochs, budget and tokens (R475, R505 to R509), migration (R510 to R513), soft errors and spares (R514 to R516), boot (R501, R519). -/

namespace Sys2Proof.Machine

open Sys2Proof

/-! ## Clock stops (R504) -/

/-- A number as a tile. -/
def tileOfNat (n : Nat) : Fin 196 := ⟨n % 196, Nat.mod_lt _ (by decide)⟩

/-- The frequency of an operating point in tenths of a GHz (R502). -/
def pointFreq (p : Nat) : Nat := [5, 7, 9, 11, 13, 15, 16, 17].getD p 17

/-- A tile's clock after its present cycle: it stops for 1 µs and goes on at a point's frequency (R504). -/
def TileSt.stopAfter (x : TileSt) (now point : Nat) : TileSt :=
  let n := x.clockAt now + 1
  { x with stopped := true, at_ := x.at_ + ((n - x.count) * 17 + (x.freq - 1)) / x.freq + 1700, count := n, freq := pointFreq point }

/-- Whether an item counts cycles of a tile's clock: a step of a core, an interface's 16 cycles before it sends again, the
return of a window read (R5, R271, R297, R337). -/
def Item.clocked (i : Item) : Bool :=
  match i.what, i.arg.load with
  | .messageRefusalResend, .msg m => i.arg.k == 1 && decide (m.orig.toNat < 3)
  | .parkRefusalResend, _ => i.arg.k == 0
  | .engineOperationComplete, _ => i.arg.k == 4
  | w, _ => isClocked w

/-- A step that a stop of its clock puts off: one of a later cycle comes in the same cycle of the new clock; what comes over the mesh to a
thread waits for the end of the stop. -/
def Item.afterStop (i : Item) (old new : TileSt) : Item :=
  if old.clockAt i.due < new.count then i
  else if i.what == .contextResume && decide (2 ≤ i.arg.k) && i.arg.k != 5 then { i with due := max i.due new.at_ }
  else { i with due := new.meshOf (old.clockAt i.due) }

/-- A tile's clock stops for 1 µs on its way to a point: every step that keeps its clock comes in the same cycle of it (R504). -/
def State.stopClock (s : State) (t : Fin 196) (point : Nat) : State :=
  let cs := s.tileCores t
  let old := s.tile t
  let new := old.stopAfter s.cycle point
  let mine := fun (i : Item) => i.clocked && cs.contains i.arg.core
  let l := s.agenda.filter mine
  let s := s.dropItems mine
  let s := { s with agenda := l.foldl (fun a (i : Item) => insertItem a (i.afterStop old new)) s.agenda }
  (s.modTile t fun _ => new).afterWay (new.at_ - s.cycle) 0 .clockStopEnd { EvArg.ofCore 0 with n := t.val, k := point }

/-- The clock stop of tile `n` ends, and the tile runs at point `k` (R504). -/
def execClockStopEnd (s : State) : Out :=
  .next (s.modTile (tileOfNat s.evt.n) fun x => { x with stopped := false, cur := s.evt.k })

/-! ## The budget (R475, R508) -/

/-- The cap in force, in mW. -/
def State.capNow (s : State) : Nat :=
  let v := s.term.service
  1000 * (if s.tsc.toNat < v.pwcap.toNat / 4096 * 4096 then min 1800 (v.pwcap.toNat % 4096) else v.safeb.toNat)

/-- The budget of the next epoch: a raise is taken at once, a fall in 100 equal steps, from the present budget when the cap changes
meanwhile. -/
def Service.nextBudget (v : Service) (cap : Nat) : Service :=
  if v.budget ≤ cap then { v with budget := cap, rampTo := cap, rampStep := 0 }
  else
    let step := if cap = v.rampTo then v.rampStep else (v.budget - cap + 99) / 100
    { v with budget := max cap (v.budget - step), rampTo := cap, rampStep := step }

/-- A write of `PWCAP` (R475): only the station core's threads make it. -/
def execPwcapWrite (s : State) : Out :=
  let n := 8 * (if s.evt.n = 0 then 8 else s.evt.n)
  let lo := 8 * s.evt.id
  let m : Word := BitVec.ofNat 64 ((2 ^ n - 1) * 2 ^ lo)
  .next ((s.writePwcap s.evt.core ((s.term.service.pwcap &&& ~~~m) ||| (s.evt.dw <<< lo &&& m))).getD s)

/-! ## Epochs (R505 to R507, R509) -/

/-- The sensors read at an epoch boundary: an input (log 30). `hot` counts successive readings of 105 °C or more. -/
def State.readSensors (s : State) : State :=
  { s with
    dies := s.dies.mapFinIdx fun d x _ =>
      { x with lpt := x.lpt.mapFinIdx fun i e _ =>
          let v := Config.freeTemp (s.free + 196 * d + i)
          { e with temp := v, hot := if 105 ≤ v.toNat then e.hot + 1 else 0 } }
    free := s.free + 784 }

/-- The readings of a tile's four core sensors (R509): a position without an identity has a core and its sensor too. -/
def State.tileTemps (s : State) (t : Fin 196) : List Nat := (s.tileEnts t).map fun e => e.temp.toNat

/-- The thermal cap of a tile after a boundary (R509). -/
def nextThermal (temps : List Nat) (cap : Nat) : Nat :=
  if temps.any fun v => decide (95 ≤ v) then cap - 1
  else if temps.all fun v => decide (v ≤ 90) then min 7 (cap + 1) else cap

/-- Leakage of a tile in mW at a point and a temperature (R507): linear between the table's temperatures, clamped outside them. -/
def leakageAt (tab : Vector Word 80) (point temp : Nat) : Nat :=
  let v := min 115 (max 25 temp) - 25
  let a := (vget tab (10 * point + v / 10)).toNat
  let b := (vget tab (10 * point + min 9 (v / 10 + 1))).toNat
  (a * (10 - v % 10) + b * (v % 10)) / 10

/-- The highest request among a tile's cores (R504). -/
def State.tileReq (s : State) (t : Fin 196) : Nat := (s.tileCores t).foldl (fun m c => max m (s.core c).ctl.oppReq.toNat) 0

/-- The place of the highest point, the lower tile first among equals. -/
def highestAt : List Nat → Nat
  | [] => 0
  | p :: l => if l.all fun q => decide (q ≤ p) then 0 else 1 + highestAt l

/-- Lower points, one step at a time, until the demands fit into the budget (R505). -/
def fitPoints (cost : Nat → Nat → Nat) (budget : Nat) : Nat → List Nat → List Nat
  | 0, ps => ps
  | n + 1, ps =>
    if (ps.mapIdx cost).sum ≤ budget ∨ ps.all (fun p => p == 0) then ps
    else
      let i := highestAt ps
      fitPoints cost budget n (ps.set i ((ps[i]?).getD 0 - 1))

/-- Operating points, grants and tokens for the next epoch (R504 to R506). -/
def State.grantEpoch (s : State) : State :=
  let ts := List.finRange 196
  let seed := s.free
  let s := { s with free := s.free + 197 }
  let cost := fun (t p : Nat) =>
    let x := s.tile (tileOfNat t)
    if x.supply != .on then 0
    else Config.freePower (seed + t) p + leakageAt s.term.service.leakage p ((s.tileTemps (tileOfNat t)).foldl max 0)
  let rest := Config.freePower (seed + 196) 0
  let asked := ts.map fun t => min (s.tileReq t) (s.tile t).thermal
  let budget := s.term.service.budget
  let points := fitPoints cost (budget - rest) 1400 asked
  let left := budget - rest - (points.mapIdx cost).sum
  let demand := (ts.map fun t => (s.tile t).scavE).sum
  ts.foldl (fun s t =>
    let p := (points[t.val]?).getD 0
    let a := (asked[t.val]?).getD 0
    let s := s.modTile t fun x =>
      { x with grant := if p < a then p else 7
               tokens := if demand = 0 then 0 else left * 10000 * x.scavE / demand / 40
               scavE := 0 }
    let x := s.tile t
    if x.supply == .on && !x.stopped && x.cur != p && !(s.tileCores t).isEmpty then s.stopClock t p else s) s

/-- The migrations of identities on cores that are too hot, and the shutdown when any core's sensor reads 115 °C (R501, R509). -/
def State.watchHeat (s : State) : State :=
  let ents : List (Fin 4 × Fin 196 × LptEnt) := (List.finRange 4).flatMap fun d => (List.finRange 196).map fun i => (d, i, s.dies[d.val].lpt[i.val])
  let held := ents.filter fun q => isCore q.2.2.lid.toNat
  let s := held.foldl (fun (s : State) q =>
    if 2 ≤ q.2.2.hot then
      s.after 0 2 .migrationRequest { EvArg.ofCore (coreOfNat (256 * q.1.val)) with n := q.2.1.val, k := 0 }
    else s) s
  if ents.any fun q => decide (115 ≤ q.2.2.temp.toNat) then s.after 0 0 .powerFailWarning { EvArg.ofCore 0 with k := 1 } else s

/-- An epoch boundary (R504 to R509); the next one follows 10 µs later. -/
def execEpochBoundary (s : State) : Out :=
  let s := s.readSensors
  let s := (List.finRange 196).foldl (fun s t => s.modTile t fun x => { x with thermal := nextThermal (s.tileTemps t) x.thermal }) s
  let s := s.modSvc fun v => v.nextBudget s.capNow
  .next ((s.grantEpoch.watchHeat).after 17000 2 .epochBoundary s.evt)

/-! ## Migration (R510 to R513) -/

/-- The cores of a die. -/
def dieCores (d : Fin 4) : List CoreId := (List.range 192).map fun i => coreOfNat (256 * d.val + i)

/-- Whether a tile's power is good, or comes back with a wake (R473). -/
def Supply.present : Supply → Bool
  | .lost => false
  | _ => true

/-- Whether a core can be exchanged with a moving one: no tile task, every scavenger waiting, every queue and the ready ring empty. -/
def State.canSwap (s : State) (c : CoreId) : Bool :=
  let x := s.core c
  (s.tile (s.tileOf c)).supply.present && x.prim.portq.toList.all List.isEmpty && x.prim.mode == .idle && x.prim.task.isNone && x.offer.isNone && x.ckpt.isNone &&
    x.move.isNone && x.pends.isEmpty && x.qmx.isEmpty && x.qnet.isEmpty && x.ring.isEmpty &&
    x.scav.toList.all fun h => h.st == .waiting && h.chan.isNone && decide (h.freeFrom ≤ s.clock c) && h.portq.toList.all List.isEmpty

/-- The destination of a move: the lowest free position of the reserve tile, else that of the lowest idle core, which is exchanged. -/
def State.moveTo (s : State) (c : CoreId) : Option (Nat × Option CoreId) :=
  let d := dieOf c
  let cs := dieCores d
  match (List.finRange 196).find? fun i =>
    let e := s.dies[d.val].lpt[i.val]
    e.rsv && !e.ret && e.lid == 0x3FF && !(cs.any fun q => (s.core q).move.any fun m => m.dest == i.val) with
  | some i => some (i.val, none)
  | none => (cs.find? fun q => q != c && s.canSwap q).map fun q => (s.posOf q, some q)

/-- A migration of the identity at position `n` of a die is requested (R509, R510, R515), for the reason `k`; one for errors names its identity,
in `id` less 1. One that is requested or under way already takes on that reason; an identity that another's move exchanges meanwhile is asked
again after it. -/
def execMigrationRequest (s : State) : Out :=
  let d := dieOf s.evt.core
  let e := vget s.dies[d.val].lpt (if s.evt.id = 0 then s.evt.n else s.posOf (coreOfNat (s.evt.id - 1)))
  if !isCore e.lid.toNat then .next s
  else
    let c := coreOfNat e.lid.toNat
    let x := s.core c
    if x.moveReq.isSome || x.move.isSome then
      if s.evt.k ≠ 2 then .next s
      else if x.move.any fun m => m.swapped then .next (s.after 1 2 .migrationRequest s.evt)
      else .next (s.modCore c fun x => { x with moveReq := x.moveReq.map fun _ => 2, move := x.move.map fun m => { m with why := 2 } })
    else if (s.moveTo c).isNone then .next s
    else .next ((s.modCore c fun x => { x with moveReq := some s.evt.k }).after 0 2 .migration (EvArg.ofCore c))

/-- The move begins once `Q.MX` is empty: the barrel freezes; without a destination the identity stays. -/
def State.startMove (s : State) (c : CoreId) : State :=
  match s.moveTo c, (s.core c).moveReq with
  | some (goal, peer), some why =>
    let from_ := s.posOf c
    let s := s.unwaitScavs c
    let s := s.modCore c fun x => { x with move := some { dest := goal, why := why, peer := peer, held := false, swapped := false } }
    let s := match peer with
      | some q => s.modCore q fun x => { x with move := some { dest := from_, why := why, peer := some c, held := true, swapped := true } }
      | none => s
    s.after 1 2 .migration { EvArg.ofCore c with k := 3 }
  | _, _ =>
    let s := s.modCore c fun x => { x with moveReq := none }
    if (s.prim c).mode == .capturing then
      (s.modPrim c fun p => { p with mode := .running }).after 1 1 .bundleFetch (EvArg.ofCore c)
    else s

/-- A tile of a migration that is gated, or on the way to it, wakes first. -/
def State.asleep (s : State) (c : CoreId) : Option (Fin 196) :=
  ((s.tileOf c) :: match s.moveTo c with | some (_, some q) => [s.tileOf q] | _ => []).find? fun t =>
    (s.tile t).supply != .on && (s.tile t).supply.present

/-- The phases of a migration (R511): `k` = 0 waits for a primary that has no bundle boundary, 1 follows a boundary and drains `Q.MX`,
3 drains the queues, 4 the scavenger cache, after which accesses are held and the primary is captured, 2 begins the copy. -/
def execMigration (s : State) : Out :=
  let c := s.evt.core
  let x := s.core c
  let again := fun (k d : Nat) (s : State) => s.after d 2 .migration { EvArg.ofCore c with k := k }
  let start := fun (k : Nat) => match s.asleep c with
    | some t => again k 1 (s.after 0 2 .tileWake { EvArg.ofCore 0 with n := t.val, k := 0 })
    | none => s.startMove c
  match s.evt.k, x.move with
  | 0, none =>
    if x.moveReq.isNone then .next s
    else if (x.prim.mode == .idle || x.prim.mode == .halted) && x.ckpt.isNone && x.capReq.isNone && x.qmx.isEmpty then .next (start 0)
    else .next (again 0 16 s)
  | 1, none => .next (if x.qmx.isEmpty then start 1 else again 1 1 s)
  | 3, some _ =>
    if !x.pends.isEmpty || x.scavsBusy then .next (again 3 1 s)
    else .next (again 4 1 (x.cache.foldl (fun s l => if l.dirty = 0 then s else s.writeBackLine c l) s))
  | 4, some m =>
    if !x.qnet.isEmpty then .next (again 4 1 s)
    else
      let s := s.modCore c fun x => { x with cache := [], move := some { m with held := true } }
      if x.prim.mode == .capturing then .next (s.after 0 1 .captureStart { EvArg.ofCore c with k := 0x14 })
      else .next (again 2 0 s)
  | 2, some _ => .next (s.after 33000 0 .moveCopyEnd (EvArg.ofCore c))
  | _, _ => .next s

/-- An entry with another identity. -/
def LptEnt.hold (e : LptEnt) (lid : BitVec 10) : LptEnt :=
  { e with lid := lid, ins := lid != 0x3FF, mov := lid != 0x3FF && lid != e.hlid }

/-- A MOVED record (R512). -/
def movedRecord (from_ lid why goal : Nat) (stamp : Word) : Rec64 :=
  #v[BitVec.ofNat 64 (from_ * 2 ^ 32 + lid * 2 ^ 16 + why * 2 ^ 8 + 0x24), BitVec.ofNat 64 goal, stamp, 0, 0, 0, 0, 0]

/-- What a core keeps in cycles of its tile's clock, told in another tile's: cycle `a` of the one is cycle `b` of the other. -/
def Core.rebase (x : Core) (a b : Nat) : Core :=
  let later := fun (h : Option Hold) => h.map fun q => { q with since := q.since + b - a }
  { x with
    prim := { x.prim with hold := later x.prim.hold, lastIssue := x.prim.lastIssue + b - a }
    scav := x.scav.map fun h => { h with wait := later h.wait, freeFrom := h.freeFrom + b - a }
    dispAt := x.dispAt + b - a, portUse := [], engUse := []
    park := x.park.map fun q => { q with due := q.due + b - a } }

/-- An identity goes on at its position, whose clock is another than in cycle `a` of its old one: the bounds of parked accesses that come
again, held accesses, the barrel, the dispenser, its supervisor's ring. -/
def State.settleAt (s : State) (c : CoreId) (a : Nat) : State :=
  let b := s.clock c
  let s := (List.range 1024).foldl (fun (s : State) i => s.modCore (coreOfNat i) fun x =>
    { x with inj := x.inj.map fun p =>
        if (p.kind == .rldf || p.kind == .rstf) && p.started && (s.homeOf (coreOfNat i) p.a.toNat).any (fun h => s.portOf h == some (.core c)) then
          { p with bound := p.bound + b - a }
        else p }) s
  let s := (s.modCore c fun x => { x.rebase a b with move := none, moveReq := none }).releaseHeld c
  let s := (List.finRange 8).foldl (fun s k =>
    if (s.scav c k).st == .waiting || (s.scav c k).st == .halted then s else s.joinBarrel c k) s
  let s := s.after 1 3 .dispatch (EvArg.ofCore c)
  if isSupervisor c then s.after 0 2 .ringRecordWrite (EvArg.ofCore c) else s

/-- The copy ends (R511, R512): both table entries change at once, the record is sent, held accesses go on, and the primary resumes. -/
def execMoveCopyEnd (s : State) : Out :=
  let c := s.evt.core
  match (s.core c).move with
  | none => .next s
  | some m =>
    let d := dieOf c
    let from_ := s.posOf c
    let clock := fun (q : CoreId) => s.clock q
    let old := vget s.dies[d.val].lpt from_
    let new := vget s.dies[d.val].lpt m.dest
    let s := s.modDie d fun x =>
      { x with lpt := vset (vset x.lpt from_ { old.hold new.lid with ret := old.ret || m.why == 2 }) m.dest (new.hold old.lid) }
    let s := s.sendRecord c d (movedRecord from_ c.val m.why m.dest s.tsc)
    let s := match m.peer with
      | some q => (s.settleAt q (clock q)).offerTo q
      | none => s
    let s := s.settleAt c (clock c)
    if (s.prim c).mode == .capturing then .next (s.after 160 1 .contextResume { EvArg.ofCore c with k := 5 })
    else .next (s.offerTo c)

/-! ## Soft errors and spares (R464, R514 to R516) -/

/-- The `UNIT` code of a store (R515). -/
def ErrUnit.code : ErrUnit → Nat
  | .scratchpad => 1
  | .registers => 2
  | .l2 => 3
  | .vault => 4
  | .sump => 5
  | .flowstone => 6
  | .scavCache => 7
  | .link => 8
  | .matrix => 9

/-- One more corrected error of a unit. -/
def bump (v : Vector (BitVec 32) 9) (unit : Nat) : Vector (BitVec 32) 9 := vset v (unit - 1) (vget v (unit - 1) + 1)

/-- A cell holds an uncorrectable error. -/
def State.spoil (s : State) (key : Nat) : State := { s with spoilt := insertNat s.spoilt key }

/-- Free bytes at a key: contents that an error has lost. -/
def State.loseBytes (s : State) (key n : Nat) : State :=
  { s.writeKey key ((List.range n).map fun i => Config.freeByte (s.free + i)) with free := s.free + n }

/-- A second uncorrectable error in a core's scratchpad or registers within 2^36 ticks migrates the identity (R515). -/
def State.noteError (s : State) (c : CoreId) : State :=
  let now := s.tsc
  let again := (s.core c).errAt.any fun t => decide (now.toNat - t.toNat < 2 ^ 36)
  let s := s.modCore c fun x => { x with errAt := some now }
  if again then s.after 0 2 .migrationRequest { EvArg.ofCore c with n := s.posOf c, k := 2, id := c.val + 1 } else s

/-- A dirty L2 line is dropped (R514): its dirty bytes are lost. -/
def State.dropLine (s : State) (c : CoreId) (key : Nat) : State :=
  match (s.core c).l2.find? fun l => l.line == key / 128 with
  | none => s
  | some l =>
    if l.dirty = 0 then s
    else
      (List.range 128).foldl (fun s i => if l.dirty.getLsbD i then s.loseBytes (key / 128 * 128 + i) 1 else s)
        (s.modCore c fun x => { x with l2 := x.l2.filter fun q => q.line != l.line })

/-- The tiles of an accumulator that a matrix entry reads or writes: its base tile and as many as its shape has (R195). -/
def MEntry.covers (q : MEntry) (a : Nat) : Bool :=
  (q.kind == .mma || q.kind == .mmas) && decide (q.base ≤ a) && decide (a < q.base + q.mt * q.nt)

/-- An uncorrectable error in accumulator tile `a` (R366): the entries of `Q.MX` whose tiles cover it complete with undefined outputs. With none, the
tile's contents are undefined, and `MXERR` and the record come now (log 126). -/
def State.matrixError (s : State) (c : CoreId) (a : Nat) : State :=
  if (s.core c).qmx.any fun q => q.covers a then
    s.modCore c fun x => { x with qmx := x.qmx.map fun q => if q.covers a then { q with bad := true } else q }
  else
    ((s.modRegs c fun g => g.wrA (a % 32) (Config.freeTile s.free)).modPrim c fun p => { p with mxerr := true }).tickFree.sendSerr c 9 (a % 32)

/-- What an uncorrectable error does in a core's store (R514); a register's error names it by its selector (log 126). -/
def State.coreError (s : State) (c : CoreId) (e : SoftError) : State :=
  let a := e.addr.toNat
  match e.unit with
  | .scratchpad => ((s.spoil (scratchKey c (a % 2 ^ 21 / 8 * 8))).noteError c).sendSerr c 1 a
  | .registers => ((s.modPrim c fun p => { p with regErr := p.regErr ++ [e.addr.setWidth 64] }).noteError c).sendSerr c 2 a
  | .l2 =>
    let s := s.dropLine c (vaultKey c (a % 2 ^ 29))
    (s.spoil (vaultKey c (a % 2 ^ 29 / 32 * 32))).sendSerr c 3 a
  | .vault =>
    let s := (s.spoil (vaultKey c (a % 2 ^ 29 / 32 * 32))).sendSerr c 4 a
    (s.after (Config.freeLatency s.free % 1700000) 2 .spareRowReplacement { EvArg.ofCore c with n := a % 2 ^ 29 }).tickFree
  | .flowstone => (s.failCkpt c).sendSerr c 6 a
  | .matrix => s.matrixError c a
  | u => s.sendSerr c u.code a

/-- What an uncorrectable error does on the Terminus die (R514, R516). -/
def State.termError (s : State) (e : SoftError) : State :=
  let a := e.addr.toNat
  let s := match e.unit with
    | .sump => s.spoil (sumpKey (a % 2 ^ 48 / 32 * 32))
    | .link => s.after (Config.freeLatency s.free % 170000) 2 .peerLinkRetrain { EvArg.ofCore 0 with n := a % 8 }
    | _ => s
  let d := supervisorOf 0
  s.after (s.toTerminus d) 2 .ringRecordWrite { EvArg.ofCore d with
    load := .record (serrRecord 0x3FF e.unit.code (e.addr.setWidth 64) s.tsc (vget s.term.service.corrected (e.unit.code - 1))) }

/-- A soft error (R464, R514, R515): with `k` = 1 it was corrected and only counts. -/
def execUncorrectableError (s : State) : Out :=
  match s.evt.load with
  | .error e =>
    let home := isCore e.core.toNat
    let c := coreOfNat e.core.toNat
    if s.evt.k = 1 then
      .next (if home then s.modCore c fun x => { x with corrected := bump x.corrected e.unit.code }
        else s.modSvc fun v => { v with corrected := bump v.corrected e.unit.code })
    else .next (if home then s.coreError c e else s.termError e)
  | _ => .next s

/-- A spare row replaces the one that holds vault offset `n` (R516): its data is lost. A bank whose 8 spare rows are all in use replaces none. -/
def execSpareRowReplacement (s : State) : Out :=
  let c := s.evt.core
  let r := Config.rowSize
  let row := s.evt.n / r
  let key := vaultKey c (row * r)
  if 8 ≤ ((s.core c).spared.filter fun q => Config.rowBank q == Config.rowBank row).length then .next s
  else
    let s := s.modCore c fun x => { x with spared := row :: x.spared }
    .next { s.loseBytes key r with spoilt := s.spoilt.filter fun k => !(decide (key ≤ k) && decide (k < key + r)) }

/-- A peer link with a retired lane trains again at 4 lanes (R516): programs see only latency, which is free (R397). -/
def execPeerLinkRetrain (s : State) : Out :=
  .next (s.modTerm fun t => { t with peerLanes := vset t.peerLanes s.evt.n 4 })

/-! ## Boot (R501, R519) -/

/-- Whether a firmware image is accepted (R519): its ECDSA signature over SHA-512 on P-521 verifies, the digest of its key is the fused one, its
security version is not below the fused one, its header is well formed. -/
def Firmware.accepted (f : Firmware) (v : Service) : Bool :=
  ecdsaOk f.key (sha512 f.body) f.sig && sha512 (keyBytes f.key) == v.fusedKey && decide (v.fused ≤ f.version) && f.headerOk

/-- The image that the boot ROM takes: slot 0, else slot 1. -/
def Service.choose (v : Service) : Option Firmware :=
  (v.flash.toList.filterMap id).find? fun f => f.accepted v

/-- The sections of an image for one core are loaded (R497): the block table, the data of domain `0x0` under it, the channels with their code;
every line is dirty, every bit full. What an image has no section for stays as it is (DESIGN CHOICE, log 111). -/
def State.loadParts (s : State) (c : CoreId) (g : Program) : State :=
  let s := (g.sbt.zipIdx).foldl (fun s q =>
    s.setSbt c q.2 (sbtWord (q.1.getLsbD 63) false false (Word.bits q.1 8 4) (Word.bits q.1 0 6))) s
  let s := g.data.foldl (fun s q => (s.writeProg c (s.sbt c) true q.1 q.2).mendProg c (s.sbt c) q.1 q.2.length) s
  let s := g.chans.foldl (fun s q => s.modCore c fun x =>
    x.setChan q.1 { (x.chan q.1).withDw8 q.2.2 with entry := q.2.1, code := g.code }) s
  let lo := scratchKey c 0
  { (s.modCore c fun x => { x with dirty := BitVec.allOnes 32768 }) with
    empty := s.empty.filter fun d => !(decide (lo / 8 ≤ d) && decide (d < lo / 8 + 2 ^ 18)) }

/-- A resident program is loaded (R476, R477) and starts on a core's primary (R518, R519), a supervisor's with `SVRB.EN` = 0 (R369); a captured context is gone. -/
def State.startResident (s : State) (c : CoreId) (g : Program) : State :=
  let s := ((s.loadParts c g).dropIssue c).taskStart c
  let s := s.modCore c fun x =>
    { x.returnWay 15 with
      code := g.code, cap := none, ctl := { x.ctl with svAct := false, svrb := x.ctl.svrb &&& 0x7FFFFFFFFFFFFFFF } }
  (s.modPrim c fun p => { p with pc := g.entry, entryFrom := some (BitVec.allOnes 64), mode := .running, fault := none, hold := none,
                                 task := none }).after 1 1 .bundleFetch (EvArg.ofCore c)

/-- The tile of a die, 0 to 48, at a position (R14). -/
def tileInDie (pos : Nat) : Nat := pos / 28 * 7 + pos % 14 / 2

/-- The logical-to-physical table that the boot builds (R14, R519): the positions of failed tiles, bits of `failed`, are retired; the reserve
tile goes into service if another tile has failed; the positions in service are numbered in row-major order (log 110). -/
def builtTable (die failed : Nat) : Vector LptEnt 196 :=
  if failed = 0 then lptReset die
  else
    let bad := fun i => failed.testBit (tileInDie i)
    let spare := failed == 2 ^ tileInDie 174
    let out := fun i => bad i || (isReserve i && spare)
    Vector.ofFn fun i : Fin 196 =>
      let lid := if out i.val then 0x3FF
        else BitVec.ofNat 10 (256 * die + ((List.range i.val).filter fun j => !out j).length)
      { ins := !out i.val, rsv := isReserve i.val && out i.val && !bad i.val, ret := bad i.val, mov := false, hlid := lid, lid := lid, temp := 0, hot := 0 }

/-- The table of each die is built (R519); the failed tiles that the tests have found, a word of bits for each die, are an input. -/
def State.buildTables (s : State) (failed : List Word) : State :=
  { s with dies := s.dies.mapFinIdx fun d x _ =>
      let t := builtTable d (((failed[d]?).getD 0).toNat % 2 ^ 49)
      { x with lpt := t, ports := t.map LptEnt.lid } }

/-- The boot ROM takes the first image that it accepts (R519): the management controller runs it, builds the tables, loads the leakage table and
the safe budget, and lets tiles that had lost their power resume. Without an image the module is in recovery. -/
def State.bootFirmware (s : State) : State :=
  match s.term.service.choose with
  | none => s.modSvc fun v => { v with boot := .recovery, current := none }
  | some f =>
    let s := s.buildTables (match s.evt.load with | .words ws => ws | _ => [])
    let s := s.modSvc fun v =>
      { v with boot := .running, current := some f, windowsOpen := false, leakage := f.leakage, safeb := f.safeBudget,
               pwcap := f.safeBudget.setWidth 64, budget := 1000 * f.safeBudget.toNat, rampTo := 1000 * f.safeBudget.toNat, rampStep := 0 }
    let s := s.modTerm fun t => { t with windows := t.windows.map fun w => { w with up := true } }
    let s := (List.finRange 196).foldl (fun s t =>
      if (s.tile t).supply == .lost then s.after 0 0 .powerGoodResume { EvArg.ofCore 0 with n := t.val } else s) s
    s.after 0 0 .powerOnBoot { EvArg.ofCore 0 with k := 1 }

/-- Power-on (R519): with `k` = 0 the boot ROM looks for an image; with 1, once the tiles' power is good, the supervisors' programs start; with
2, once each has set `SVRB.EN`, the station's program starts and the message windows open. -/
def execPowerOnBoot (s : State) : Out :=
  match s.evt.k, s.term.service.current with
  | 0, _ => .next s.bootFirmware
  | 1, some f =>
    if (List.finRange 196).any fun t => (s.tile t).supply == .lost then .next (s.after 1700 0 .powerOnBoot s.evt)
    else
      .next (((List.finRange 4).foldl (fun s d => s.startResident (supervisorOf d) f.supervisor) s).after 17000 2 .epochBoundary (EvArg.ofCore 0))
  | _, some f =>
    .next (if s.term.service.windowsOpen then s
      else (s.startResident stationCore f.station).modSvc fun v => { v with windowsOpen := true })
  | _, none => .next s

/-- A host resets the module through a port (R501): after a shutdown, or in recovery, it boots again; the failed tiles that the boot will find
come with it. -/
def execHostReset (s : State) : Out :=
  if s.term.service.boot == .running then .next s
  else .next (s.after 0 0 .powerOnBoot { EvArg.ofCore 0 with load := s.evt.load })

/-- In recovery a mailbox request writes an image into slot 1 of the flash (R519). -/
def execRecoveryImageWrite (s : State) : Out :=
  match s.term.service.boot, s.evt.load with
  | .recovery, .firmware f => .next (s.modSvc fun v => { v with flash := vset v.flash 1 (some f) })
  | _, _ => .next s

end Sys2Proof.Machine
end

