-- ==== Sys2Proof/Machine/Host.lean ====
section
/-! DEFINITION. What comes from the host: tables written through a port (R321, R327), message windows (R482 to R485), accesses to the
HDM ranges (R482), the semaphores (R486, R487), a link that goes down (R517), the loader (R496 to R499), attestation (R520). -/

namespace Sys2Proof.Machine

open Sys2Proof

/-- Whether a port answers: its link is up, and the firmware runs. -/
def State.portAnswers (s : State) (p : HostPort) : Bool := (s.window p).up && s.term.service.boot == .running

/-- A write of a core group, a region or a root at offset `n` of core `id` (R321, R327): every copy has it before the write completes. -/
def execMemoryMapTableWrite (s : State) : Out :=
  match s.writeMap s.evt.id s.evt.n s.evt.dw with
  | some t => .next (t.answerHost s.evt.port 0)
  | none => .next (s.answerHost s.evt.port 1)

/-! ## Message windows (R483 to R485) -/

/-- The status doubleword of a window (R485). -/
def Window.status (w : Window) : Word :=
  let busy := (List.range 16).foldl (fun m i => if (vget w.slots i).isSome then m + 2 ^ i else m) 0
  BitVec.ofNat 64 (w.ovr.toNat * 2 ^ 48 + w.bad.toNat * 2 ^ 32 + w.dl.toNat * 2 ^ 16 + busy)

/-- Whether a port's CXL.io answers: its link is up and the boot ROM has run; in recovery it answers too (R519). -/
def State.ioAnswers (s : State) (p : HostPort) : Bool := (s.window p).up && s.term.service.boot != .off

/-- What a port reads at offset `off` of BAR0 without an effect (R483, R485, R486): slots read as zero, the status, a semaphore's `STAMP`. -/
def State.bar0 (s : State) (p : HostPort) (off : Nat) : Word :=
  if off = 0x400 then (s.window p).status
  else if 0x800 ≤ off ∧ off < 0xA00 ∧ off % 16 = 8 then (s.sem ((off - 0x800) / 16)).stamp
  else 0

/-- Whether a posting is well formed (R236, R483): `CORE`, `NM` and the bits that a target word has no field in are 0, and the last three
doublewords. -/
def postOk (ws : List Word) : Bool :=
  let w := fun i => (ws[i]?).getD 0
  Word.bits (w 0) 0 10 == 0 && Word.bits (w 0) 28 36 == 0 && w 5 == 0 && w 6 == 0 && w 7 == 0

/-- A host writes slot `n` of its window (R483, R484). -/
def execHostMessagePost (s : State) : Out :=
  match s.evt.load with
  | .words ws =>
    let p := s.evt.port
    let w := s.window p
    if !s.portAnswers p || !s.term.service.windowsOpen then .next s
    else if ws.length ≠ 8 then .next (s.modWindow p fun w => { w with bad := w.bad + 1 })
    else if (vget w.slots s.evt.n).isSome then .next (s.modWindow p fun w => { w with ovr := w.ovr + 1 })
    else if !postOk ws then .next (s.modWindow p fun w => { w with bad := w.bad + 1 })
    else
      let arg := fun i => (ws[i]?).getD 0
      let m : Msg := { target := arg 0, args := #v[arg 1, arg 2, arg 3, arg 4], stamp := s.tsc, src := 0x3FF,
                       orig := if portIdx p = 0 then 3 else 4, thr := .prim, ref := s.evt.n % 16 }
      let wait := w.order.any fun q => q.2.1 || q.2.2
      let s := s.modWindow p fun w => { w with slots := vset w.slots m.ref (some m), order := w.order ++ [(m.ref, false, wait)] }
      .next (if wait then s else s.postHost p m.ref)
  | _ => .next s

/-! ## CXL.mem (R482) -/

/-- The address of a host access, its length, whether it writes, its bytes. -/
def HostAccess.parts : HostAccess → Nat × Nat × Bool × List Byte
  | .read sump off len => ((if sump then 4 else 3) * 2 ^ 52 + off % 2 ^ 52, len, false, [])
  | .write sump off bs => ((if sump then 4 else 3) * 2 ^ 52 + off % 2 ^ 52, bs.length, true, bs)

/-- The access waits for a wake (R332): one notice per key of the Terminus die. -/
def State.hostNotice (s : State) (home kind level a : Nat) : State :=
  let key := faultKey a
  let known := (s.term.waitWake.any fun w => w.1 == key) || s.term.hostWait.any fun w => w.1 == key
  let s := s.modTerm fun t =>
    { t with hostWait := t.hostWait ++ [(key, { due := s.cycle, prio := 2, what := .hostMemoryAccess, arg := { s.evt with k := 0, n := 0 } })] }
  if known then s
  else
    let xy := bridgeXY (dieOf (coreOfNat (if home = 0x3FF then 0 else home)))
    let n : Notice := { key := key, src := 0x3FF, home := BitVec.ofNat 10 home, level := BitVec.ofNat 3 level,
                        kind := BitVec.ofNat 3 kind, addr := BitVec.ofNat 56 a, stamp := s.tsc }
    s.after 20 2 .faultNotice { EvArg.ofCore 0 with load := .notice ⟨xy.1, xy.2⟩ 5 n }

/-- Ask the homes of the pieces: the places, whether one failed, and the first fault. -/
def State.askHost (s : State) (acc : Acc) (rd : Bool) :
    List (Nat × Nat) → List (Nat × Nat × Answer) × Bool × Option (Nat × Nat × Nat × Nat) × State
  | [] => ([], true, none, s)
  | (a, n) :: l =>
    let r := s.answer 0 a n rd acc
    let rest := fun (s : State) => State.askHost s acc rd l
    match r.1 with
    | .error => let q := rest r.2.1; (q.1, false, q.2.2)
    | .refused h lv =>
      let d := coreOfNat (if h = 0x3FF then 0 else h)
      let q := rest (r.2.1.sendRecord d (dieOf d) (xlateRecord 0x3FF h lv true 7 a s.tsc))
      (q.1, false, q.2.2)
    | .fault h k lv => let q := rest r.2.1; (q.1, q.2.1, some (h, k, lv, a), q.2.2.2)
    | w => let q := rest r.2.1; ((a, n, w) :: q.1, q.2)

/-- A host access takes its place at its homes' ports (R396, R397): it waits at that of its first piece, for the home's read term too. -/
def State.hostArrives (s : State) (ps : List (Nat × Nat)) (wr : Bool) : State :=
  match ps.filterMap fun x => s.homeOf 0 x.1 with
  | [] => s.after 0 2 .hostMemoryAccess { s.evt with k := 1 }
  | h :: hs =>
    let s := hs.foldl (fun s q => match s.portOf q with | some p => if s.portOf h == some p then s else s.takePlaces p 1 | none => s) s
    match s.portOf h with
    | some p => s.arriveAt p ⟨true, s.tsc, 0, if wr then 0 else readTerm h, .hostMemoryAccess, s.evt⟩
    | none => s.after 0 2 .hostMemoryAccess { s.evt with k := 1 }

/-- A host access arrives (`k` = 0), waits for its home's port and for its walks, with `n` = 1 once they have ended (R330), and is translated and
performed at its home (R482); a wake that refuses it (`k` = 2) ends it ERROR. With `id` = 1 it is an access
of a peer module, of a domain `0x3` or `0x4` address (R318, R339); its answer leaves by the peer link. -/
def execHostMemoryAccess (s : State) : Out :=
  match s.evt.load with
  | .host h =>
    let p := s.evt.port
    let q := h.parts
    let peer := s.evt.id == 1
    let reply := fun (s : State) (bad : Bool) (bs : Option (List Byte)) =>
      if peer then s
      else match bs with
        | some l => let s := s.modWindow p fun w => { w with reads := w.reads ++ [l] }; if bad then s.answerHost p 1 else s
        | none => s.answerHost p (if bad then 1 else 0)
    let failed := fun (s : State) => reply s true (if q.2.2.1 then none else some [])
    let tracer : Tracer := if peer then ⟨0x3FF, 11, 6⟩ else ⟨0x3FF, 10, 5⟩
    if (if peer then s.term.service.boot != .running else !s.portAnswers p) then .next s
    else if s.evt.k = 2 || !addrOk q.1 || (decide (0 < q.2.1) && !addrOk (q.1 + q.2.1 - 1)) then .next (failed s)
    else
      let ps := piecesOf 65536 q.1 q.2.1
      match s.putOffAny (ps.filterMap fun x => s.homeOf 0 x.1) q.2.2.1 .hostMemoryAccess with
      | some t => .next t
      | none =>
        let acc := if q.2.2.1 then accHost else accRead
        if ps.any fun x => (s.homeOf 0 x.1).isNone then .next (failed s)
        else if s.evt.k = 0 then .next (s.hostArrives ps q.2.2.1)
        else
          let w := if s.evt.n = 1 then (0, s) else s.walksOfAll 0 (!q.2.2.1) acc ps
          if w.1 ≠ 0 then .next (w.2.after w.1 2 .hostMemoryAccess { s.evt with n := 1 })
          else
          let r := s.askHost { acc with walked := true } (!q.2.2.1) ps
          match r.2.2.1 with
          | some f => .next (r.2.2.2.hostNotice f.1 f.2.1 f.2.2.1 f.2.2.2)
          | none =>
            if !r.2.1 then .next (failed r.2.2.2)
            else if q.2.2.1 then
              .next (reply (r.1.foldl (fun s x => s.writeAt x.2.2 true tracer x.1 ((q.2.2.2.drop (x.1 - q.1)).take x.2.1)) r.2.2.2) false none)
            else .next (reply r.2.2.2 false (some (r.1.flatMap fun x => r.2.2.2.readAt x.2.2 x.2.1)))
  | _ => .next s

/-! ## Semaphores (R486, R487) -/

/-- The order of agents whose accesses arrive in one cycle. -/
def SemAgent.rank : SemAgent → Nat
  | .port .portA => 0
  | .port .portB => 1
  | .core _ => 2

/-- Whether a step is an access to a semaphore by an agent before another in the order. -/
def Item.semBefore (i : Item) (g : SemAgent) : Bool :=
  (i.what == .semaphoreRead || i.what == .semaphoreRelease) &&
    match i.arg.load with
    | .sem h => decide (h.rank < g.rank)
    | _ => false

/-- One semaphore access per cycle: how long the one in progress waits, 0 if it is its turn. -/
def State.semDelay (s : State) (g : SemAgent) : Option Nat :=
  if s.agenda.any fun i => decide (i.due ≤ s.cycle) && i.semBefore g then some 0
  else if s.term.semLast = s.cycle + 1 then some 1
  else none

/-- A read of semaphore `n`'s first doubleword (R487); its answer goes to the port, or to the station core's thread. With `k` = 8 it is a port's
read of BAR0 offset `n` that acquires nothing (R483, R485, R486). -/
def execSemaphoreRead (s : State) : Out :=
  match s.evt.load with
  | .sem g =>
    match s.semDelay g with
    | some d => .next (s.after d 2 .semaphoreRead s.evt)
    | none =>
      match g with
      | .port p =>
        if !s.ioAnswers p then .next s
        else
          let r := if s.evt.k = 8 then (s.bar0 p s.evt.n, s) else s.semRead g s.evt.n
          .next ((r.2.modTerm fun t => { t with semLast := s.cycle + 1 }).answerHost p r.1)
      | .core c =>
        let r := s.semRead g s.evt.n
        let s := r.2.modTerm fun t => { t with semLast := s.cycle + 1 }
        match s.evt.thr with
        | .scav k => .next (s.uncachedStep c k s.evt.id (some r.1))
        | .prim => .next s
  | _ => .next s

/-- A write of semaphore `n`'s first doubleword (R487). -/
def execSemaphoreRelease (s : State) : Out :=
  match s.evt.load with
  | .sem g =>
    match s.semDelay g with
    | some d => .next (s.after d 2 .semaphoreRelease s.evt)
    | none =>
      let t := (s.semRelease g s.evt.n).modTerm fun t => { t with semLast := s.cycle + 1 }
      match g with
      | .port p => .next (if s.ioAnswers p then t.answerHost p 0 else s)
      | .core _ => .next t
  | _ => .next s

/-! ## A link goes down (R517) -/

/-- Whether a message came from a port. -/
def Msg.fromPort (m : Msg) (p : HostPort) : Bool := m.src == 0x3FF && m.orig.toNat == 3 + portIdx p

/-- The semaphores that a port owns are released. -/
def State.releaseOwned (s : State) (p : HostPort) : State :=
  (List.range 32).foldl (fun s n => s.semRelease (.port p) n) s

/-- Whether an operation has an access of domain `0x5` on its way. -/
def Pend.hostBound (p : Pend) : Bool :=
  !p.performed &&
    match p.kind with
    | .ratom | .decr | .fill | .writeBack => domOf p.a.toNat == 5
    | .xcp | .xcp2 | .xga | .xsc | .xkvg => p.moves.any fun m => domOf (if p.writing then m.dst else m.src) == 5
    | _ => false

/-- Whether a step is an access of an operation on its way to its home. -/
def carries (c : CoreId) (id : Nat) (what : Instr) (arg : EvArg) : Bool :=
  arg.core == c && arg.id == id &&
    (what == .remoteAccessAtHome || what == .ratomAtHome || what == .decrAtHome || what == .scavengerCacheFill || what == .scavengerCacheWritebackAck)

/-- The operations of a core whose access was on its way at the port or waits at the Terminus die: sent again through the other port, or
failed. Which port an access takes is open. -/
def State.rerouteCore (s : State) (sameHost : Bool) (c : CoreId) : State :=
  let sent := fun (id : Nat) => (s.agenda.any fun i => carries c id i.what i.arg) || s.term.port.waiting.any fun r => carries c id r.what r.arg
  let x := s.core c
  ((x.pends ++ x.qnet).filter fun p => p.hostBound && sent p.id).foldl (fun s p =>
    let s := s.tickFree
    if !Config.freeBool (s.free - 1) then s
    else
      let s := (s.dropItems fun i => carries c p.id i.what i.arg).modTerm fun t =>
        { t with port := { t.port with waiting := t.port.waiting.filter fun r => !carries c p.id r.what r.arg } }
      let far := p.pieces.filter fun q => !isLocal q.1
      let way := if p.moves.isEmpty then s.wayInj c p.a.toNat else farthest (fun (q : Nat × Nat) => s.wayOf c q.1) far
      if sameHost then (s.modPend c p.id fun q => { q with retried := true }).sendAgain c p (if p.moves.isEmpty then p.a.toNat else ((far.find? fun q => domOf q.1 == 5).getD (p.a.toNat, 0)).1)
      else if p.kind == .fill || p.kind == .writeBack then s.netFail c p
      else (s.modPend c p.id fun q => { q with performed := true, err := true }).completeIn c p.id (max 1 way)) s

/-- A host port's link goes down (R517); `k` = 1 says that the other port reaches the same host. -/
def execHostLinkDown (s : State) : Out :=
  let p := s.evt.port
  let s := s.dropItems fun i =>
    (i.what == .messageArrival || i.what == .messageRefusalResend) && (match i.arg.load with | .msg m => m.fromPort p | _ => false)
  let s := s.modWindow p fun w => { w with up := false, slots := Vector.replicate 16 none, order := [] }
  .next ((List.range 1024).foldl (fun s i => s.rerouteCore (s.evt.k == 1) (coreOfNat i)) (s.releaseOwned p))

/-! ## The loader (R496 to R499) -/

/-- A little-endian number in an image. -/
def Image.num (im : Image) (off n : Nat) : Nat := bytesToNat ((im.drop off).take n)

/-- A section entry (R496). -/
structure Sect where
  ty : Nat
  skip : Bool
  off : Nat
  size : Nat
  addr : Nat
  deriving DecidableEq, Repr

/-- The section entries of an image. -/
def Image.sects (im : Image) : List Sect :=
  (List.range (im.num 8 2)).map fun i =>
    let e := im.num 0x10 8 + 32 * i
    { ty := im.num e 2, skip := im.num (e + 2) 1 % 2 == 1, off := im.num (e + 8) 8, size := im.num (e + 16) 8, addr := im.num (e + 24) 8 }

/-- The bytes of a section. -/
def Image.body (im : Image) (e : Sect) : List Byte := (im.drop e.off).take e.size

/-- Whether two runs of numbers meet. -/
def runsMeet (a n b m : Nat) : Bool := decide (0 < n) && decide (0 < m) && decide (a < b + m) && decide (b < a + n)

/-- Whether some two elements of a list are related. -/
def anyPair {α : Type} (r : α → α → Bool) : List α → Bool
  | [] => false
  | x :: l => l.any (r x) || anyPair r l

/-- The header (R496). -/
def Image.headerOk (im : Image) : Bool :=
  decide (64 ≤ im.length) && im.num 0 4 == 0x49535556 && im.num 4 2 == 1 && decide (1 ≤ im.num 8 2) && decide (im.num 8 2 ≤ 256) &&
    im.num 0x18 40 == 0

/-- The table lies in the file. -/
def Image.tableOk (im : Image) : Bool := decide (im.num 0x10 8 + 32 * im.num 8 2 ≤ im.length)

/-- Sections lie in the file and apart from one another; a code section's entry list lies in it (R497). -/
def Image.sectsOk (im : Image) : Bool :=
  im.sects.all (fun e => decide (e.off + e.size ≤ im.length) && (e.ty != 1 || decide (8 * e.addr ≤ e.size))) &&
    !anyPair (fun e f => runsMeet e.off e.size f.off f.size) im.sects

/-- A note record that must be understood (R498): the records of a section, at most as many as its doublewords. -/
def noteBad : Nat → List Byte → Bool
  | 0, _ => false
  | n + 1, bs =>
    if bs.isEmpty then false
    else
      let h := bytesToNat (bs.take 8)
      h / 2 ^ 16 % 2 == 1 || noteBad n (bs.drop (8 + (h / 2 ^ 32 % 2 ^ 16 + 7) / 8 * 8))

/-- The sections of a type. -/
def Image.ofTy (im : Image) (t : Nat) : List Sect := im.sects.filter fun e => e.ty == t

/-- Whether a data section lies in the scratchpad or in its domain (R497, R499). -/
def Sect.placeOk (e : Sect) : Bool :=
  let last := e.addr + e.size - 1
  if e.size = 0 then true
  else if e.addr < 2 ^ 52 then decide (e.addr + e.size ≤ 2 ^ 21)
  else
    let unit := if domOf e.addr = 1 ∨ domOf e.addr = 2 then 2 ^ 42 else 2 ^ 52
    decide (1 ≤ domOf e.addr) && decide (domOf e.addr ≤ 6) && addrOk e.addr && addrOk last && e.addr / unit == last / unit

/-- The words of the code section. -/
def Image.code (im : Image) : List IWord :=
  (im.ofTy 1).flatMap fun e => (List.range ((e.size - 8 * e.addr) / 4)).map fun i => BitVec.ofNat 32 (im.num (e.off + 4 * i) 4)

/-- The launch descriptors of an image. -/
def Image.descs (im : Image) : List (List Word) :=
  (im.ofTy 5).flatMap fun e => (List.range (e.size / 64)).map fun i => (List.range 8).map fun j => BitVec.ofNat 64 (im.num (e.off + 64 * i + 8 * j) 8)

/-- A run of scratchpad bytes that one data section places. -/
def Image.placed (im : Image) (a n : Nat) : Option Nat :=
  ((im.ofTy 2).find? fun e => decide (e.addr < 2 ^ 52) && decide (e.addr ≤ a) && decide (a + n ≤ e.addr + e.size)).map fun e => im.num (e.off + (a - e.addr)) n

/-- The core set of a descriptor, if it is valid (R495). -/
def State.loadSet (s : State) (im : Image) (ws : List Word) : Option (BitVec 1024) :=
  let madr := ((ws[5]?).getD 0).toNat
  let mask := if madr % 8 = 0 then im.placed madr 128 else none
  s.descOk ws mask.isSome (mask.getD 0)

/-- The channel entries of an image: number and entry. -/
def Image.chans (im : Image) : List (Nat × Word × Word) :=
  (im.ofTy 4).flatMap fun e => (List.range (e.size / 24)).map fun i =>
    let o := e.off + 24 * i
    (im.num o 8, BitVec.ofNat 64 (im.num (o + 8) 8), BitVec.ofNat 64 (im.num (o + 16) 8))

/-- The cores that an image's launches name. -/
def State.loadCores (s : State) (im : Image) : BitVec 1024 :=
  im.descs.foldl (fun m ws => m ||| (s.loadSet im ws).getD 0) 0

/-- Whether two data sections write one byte: the same address, or a named core's own and global address. -/
def dataMeet (cores : BitVec 1024) (e f : Sect) : Bool :=
  let mixed := fun (e f : Sect) => decide (e.addr < 2 ^ 52) && domOf f.addr == 1 && cores.getLsbD (abits f.addr 42 10) &&
    runsMeet e.addr e.size (f.addr % 2 ^ 42) f.size
  runsMeet e.addr e.size f.addr f.size || mixed e f || mixed f e

/-- Whether every launch finds a free record at its Roundhouse (R488). -/
def State.recordsFree (s : State) (im : Image) : Bool :=
  (List.range 4).all fun d =>
    let want := (im.descs.filter fun ws => (firstDie ((s.loadSet im ws).getD 0)).val == d).length
    decide (want + (s.term.launches.filter fun p => p.1 / 1024 == d).length ≤ 1024)

/-- The first refusal that applies to an image, 0 for none (R499). -/
def State.checkImage (s : State) (im : Image) : Nat :=
  let cores := s.loadCores im
  if !im.headerOk then 1
  else if !im.tableOk then 2
  else if decide (1 < (im.ofTy 1).length) then 1
  else if !im.sectsOk then 2
  else if im.sects.any fun e => (e.ty == 0 || decide (6 < e.ty)) && !e.skip then 3
  else if (im.ofTy 6).any fun e => noteBad (e.size / 8 + 1) (im.body e) then 4
  else if (im.ofTy 2).any (fun e => !e.placeOk) || anyPair (dataMeet cores) (im.ofTy 2) then 5
  else if (im.ofTy 4).any (fun e => e.size % 24 != 0) || (im.ofTy 5).any (fun e => e.size % 64 != 0) ||
      im.chans.any (fun q => decide (64 ≤ q.1) || q.2.1.toNat % 4 != 0 || !(Chan.reset.withDw8 q.2.2).legal) ||
      im.descs.any (fun ws => (s.loadSet im ws).isNone) then 6
  else if !s.recordsFree im then 7
  else 0

/-- What an image has for each core that it names (R497). -/
def Image.program (im : Image) : Program :=
  { code := im.code, entry := 0
    sbt := ((im.ofTy 3).flatMap fun e => (List.range (e.size / 8)).map fun i => BitVec.ofNat 64 (im.num (e.off + 8 * i) 8)).take 64
    data := ((im.ofTy 2).filter fun e => decide (e.addr < 2 ^ 52)).map fun e => (e.addr, im.body e)
    chans := im.chans }

/-- Load one core (R497). Its block table and channels, if the image has no section for them, stay as they are (DESIGN CHOICE, log 111). -/
def State.loadOne (s : State) (im : Image) (c : CoreId) : State := s.loadParts c im.program

/-- Load the data of global addresses, once; a piece that does not translate is left out (log 14). -/
def State.loadGlobal (s : State) (im : Image) : State :=
  (im.ofTy 2).foldl (fun s e =>
    if e.addr < 2 ^ 52 then s
    else (piecesOf 65536 e.addr e.size).foldl (fun s q =>
      let r := s.answer 0 q.1 q.2 false accHost
      r.2.1.writeAt r.1 true ⟨0x3FF, 10, 5⟩ q.1 (((im.body e).drop (q.1 - e.addr)).take q.2)) s) s

/-- The loader (R499): a refused image writes nothing; an accepted one writes block tables, data and channels on every core named, then
the data of global addresses, which may lie in those cores' blocks; then its launches are allocated in their order. Launches wait until the message windows are open (R369). -/
def execImageLoad (s : State) : Out :=
  match s.evt.load with
  | .image im =>
    if s.term.service.boot != .running then .next s
    else
      let bad := s.checkImage im
      if !s.term.service.windowsOpen && !im.descs.isEmpty then .next (s.after 1 2 .imageLoad s.evt)
      else if bad ≠ 0 then
        .next ((s.modSvc fun v => { v with refused := v.refused ++ [BitVec.ofNat 8 bad] }).answerHost s.evt.port (BitVec.ofNat 64 bad))
      else
        let sets := im.descs.map fun ws => (ws, (s.loadSet im ws).getD 0)
        let s1 := ((membersOf (s.loadCores im)).foldl (fun s i => s.loadOne im (coreOfNat i)) s).loadGlobal im
        let s2 := sets.foldl (fun s q =>
          match s.freeLaunch (firstDie q.2) with
          | some id => s.allocLaunch id q.1 q.2 im.code
          | none => s) s1
        .next (((membersOf (s.loadCores im)).foldl (fun s i => s.after 0 3 .dispatch (EvArg.ofCore (coreOfNat i))) s2).answerHost s.evt.port 0)
  | _ => .next s

/-! ## Attestation (R520) -/

/-- The responder's answer on a port's mailbox: it needs the boot ROM only. -/
def State.attest (s : State) (a : SpdmAnswer) : State :=
  if s.term.service.boot == .off || !(s.window s.evt.port).up then s
  else (s.modWindow s.evt.port fun w => { w with mail := w.mail ++ [a] }).tickFree

/-- SPDM 1.3. -/
def execGetVersion (s : State) : Out := .next (s.attest (.version 1 3))
/-- Neither sessions nor key exchange. -/
def execGetCapabilities (s : State) : Out := .next (s.attest (.capabilities false false))
/-- ECDSA on P-521 and SHA-512 only. -/
def execNegotiateAlgorithms (s : State) : Out := .next (s.attest (.algorithms 521 512))
/-- The SHA-512 digest of the certificate chain. -/
def execGetDigests (s : State) : Out := .next (s.attest (.digests (sha512 s.term.service.chain)))
/-- The certificate chain of the identity key, in the module flash. -/
def execGetCertificate (s : State) : Out := .next (s.attest (.certificate s.term.service.chain))
/-- A signature with the identity key (log 48). -/
def execChallenge (s : State) : Out := .next (s.attest (.challenge (Config.freeSig s.free)))

/-- The digest of a resident program: of the bytes of its code section (DESIGN CHOICE, log 48). -/
def Program.digest (g : Program) : BitVec 512 := sha512 (g.code.flatMap fun w => natToBytes 4 w.toNat)

/-- The boot ROM, the firmware image, the station and supervisor programs, the fuse state; of a firmware that does not run, of no bytes. -/
def execGetMeasurements (s : State) : Out :=
  let v := s.term.service
  let of := fun (f : Firmware → BitVec 512) => (v.current.map f).getD (sha512 [])
  .next (s.attest (.measurements Config.romDigest (of fun f => sha512 f.body) (of fun f => f.station.digest) (of fun f => f.supervisor.digest)
    v.fused v.fusedKey (Config.freeSig s.free)))

end Sys2Proof.Machine
end

