-- ==== Sys2Proof/Machine/Integer.lean ====
section
/-! DEFINITION. Integer arithmetic (R114 to R118), compares, predicate logic and selection (R119 to R122). -/

namespace Sys2Proof.Machine

open Sys2Proof

/-- A two-source operation with a scalar result of latency L (R114, R116). -/
def binS (op : Op) (lat : Nat) (f : Word → Word → Word) (s : State) : Out :=
  perform op s fun s =>
    let x := s.srcAB op
    x.2.2.putS op lat 0 (f x.1 x.2.1)

/-- A one-source operation with a scalar result of latency 1 (R115). -/
def unS (op : Op) (f : Word → Word) (s : State) : Out :=
  perform op s fun s =>
    let x := s.srcS op.a op.la
    x.2.putS op 1 0 (f x.1)

def execAdd (op : Op) (s : State) : Out := binS op 1 (fun x y => x + y) s
def execSub (op : Op) (s : State) : Out := binS op 1 (fun x y => x - y) s
def execAnd (op : Op) (s : State) : Out := binS op 1 (fun x y => x &&& y) s
def execOr (op : Op) (s : State) : Out := binS op 1 (fun x y => x ||| y) s
def execXor (op : Op) (s : State) : Out := binS op 1 (fun x y => x ^^^ y) s
def execAndn (op : Op) (s : State) : Out := binS op 1 (fun x y => x &&& ~~~y) s
def execMin (op : Op) (s : State) : Out := binS op 1 (fun x y => if x.slt y then x else y) s
def execMax (op : Op) (s : State) : Out := binS op 1 (fun x y => if x.slt y then y else x) s
def execMinn (op : Op) (s : State) : Out := binS op 1 (fun x y => if x.ult y then x else y) s
def execMaxn (op : Op) (s : State) : Out := binS op 1 (fun x y => if x.ult y then y else x) s

/-- A shift: the amount is `x12`[5:0] when `x12`[6] is 1, else `s[b]`[5:0] (R115). -/
def shiftS (op : Op) (f : Word → Nat → Word) (s : State) : Out :=
  perform op s fun s =>
    if op.x12.getLsbD 6 then
      let x := s.srcS op.a op.la
      x.2.putS op 1 0 (f x.1 (op.xbits 0 6))
    else
      let x := s.srcAB op
      x.2.2.putS op 1 0 (f x.1 (x.2.1.toNat % 64))

def execShl (op : Op) (s : State) : Out := shiftS op (fun x n => x <<< n) s
def execShr (op : Op) (s : State) : Out := shiftS op (fun x n => x >>> n) s
def execSar (op : Op) (s : State) : Out := shiftS op (fun x n => x.sshiftRight n) s
def execRotl (op : Op) (s : State) : Out := shiftS op (fun x n => x.rotateLeft n) s

/-- The number of zero bits above the highest one bit of a number below 2^n. -/
def leadingZeros (n x : Nat) : Nat := if x = 0 then n else n - 1 - Nat.log2 x

/-- The number of zero bits below the lowest one bit, at most `fuel`. -/
def trailingZeros : Nat → Nat → Nat
  | 0, _ => 0
  | fuel + 1, x => if x % 2 = 1 then 0 else 1 + trailingZeros fuel (x / 2)

/-- The number of one bits among the lowest `fuel`. -/
def popCount : Nat → Nat → Nat
  | 0, _ => 0
  | fuel + 1, x => x % 2 + popCount fuel (x / 2)

def execClz (op : Op) (s : State) : Out := unS op (fun x => BitVec.ofNat 64 (leadingZeros 64 x.toNat)) s
def execCtz (op : Op) (s : State) : Out := unS op (fun x => BitVec.ofNat 64 (trailingZeros 64 x.toNat)) s
def execPopc (op : Op) (s : State) : Out := unS op (fun x => BitVec.ofNat 64 (popCount 64 x.toNat)) s

/-- A field's mask: 2^width − 1. -/
def widthMask (width : Nat) : Word := BitVec.ofNat 64 (2 ^ width - 1)

/-- (x >> pos) and (2^width − 1), with width = `x12`[11:6] + 1 (R115). -/
def execExt (op : Op) (s : State) : Out :=
  unS op (fun x => (x >>> op.xbits 0 6) &&& widthMask (op.xbits 6 6 + 1)) s

/-- `s[b]` with a field replaced by the low bits of `s[a]` (R115). -/
def execIns (op : Op) (s : State) : Out :=
  binS op 1 (fun x y =>
    let m := widthMask (op.xbits 6 6 + 1)
    (y &&& ~~~(m <<< op.xbits 0 6)) ||| ((x &&& m) <<< op.xbits 0 6)) s

def execMul (op : Op) (s : State) : Out := binS op 3 (fun x y => x * y) s
/-- Bits [127:64] of the signed product (R116). -/
def execMulh (op : Op) (s : State) : Out :=
  binS op 3 (fun x y => BitVec.ofInt 64 ((x.toInt * y.toInt) / 2 ^ 64)) s
/-- Bits [127:64] of the unsigned product (R116). -/
def execMulhn (op : Op) (s : State) : Out :=
  binS op 3 (fun x y => BitVec.ofNat 64 (x.toNat * y.toNat / 2 ^ 64)) s

/-- A division: `DIVZ` at operand read for a zero divisor (R116); what it popped goes back (R168). -/
def divS (op : Op) (f : Word → Word → Word) (s : State) : Out :=
  perform op s fun s =>
    let x := s.srcAB op
    if x.2.1 = 0 then (State.oweBack s x.2.2).raise codeDIVZ 0 0 0
    else x.2.2.putLong op 18 0 (f x.1 x.2.1)

def execDiv (op : Op) (s : State) : Out := divS op (fun x y => BitVec.ofInt 64 (Int.tdiv x.toInt y.toInt)) s
def execDivn (op : Op) (s : State) : Out := divS op (fun x y => BitVec.ofNat 64 (x.toNat / y.toNat)) s
def execRem (op : Op) (s : State) : Out := divS op (fun x y => BitVec.ofInt 64 (Int.tmod x.toInt y.toInt)) s
def execRemn (op : Op) (s : State) : Out := divS op (fun x y => BitVec.ofNat 64 (x.toNat % y.toNat)) s

/-- `s[a]` + imm modulo 2^64 (R117). -/
def execAddi (op : Op) (s : State) : Out := unS op (fun x => x + Op.imm11 op) s

/-- The sign-extended immediate (R118). -/
def execMovi (op : Op) (s : State) : Out := perform op s fun s => s.putS op 1 0 (Op.imm24 op)

/-- (imm24 << 40) or the low 40 bits of `s[a]` (R118). -/
def execMovhi (op : Op) (s : State) : Out := unS op (fun x => (op.imm ++ x.setWidth 40 : BitVec 64)) s

/-- `p[dst]` := Cond(cond, `s[a]`, `s[b]`) (R119). -/
def execCmp (op : Op) (s : State) : Out :=
  perform op s fun s =>
    let x := s.srcAB op
    x.2.2.putP op.dst 0 (condHolds op.modifier x.1 x.2.1)

/-- The immediate is the signed `x12`[11:4] (R119). -/
def execCmpi (op : Op) (s : State) : Out :=
  perform op s fun s =>
    let x := s.srcS op.a op.la
    x.2.putP op.dst 0 (condHolds op.modifier x.1 ((op.x12.extractLsb' 4 8).signExtend 64))

/-- The operators of `PLOG` and `KLOG` on one bit (R120). -/
def logF (code : Nat) (a b : Bool) : Bool :=
  match code with
  | 0 => a && b
  | 1 => a || b
  | 2 => a != b
  | 3 => a && !b
  | 4 => a || !b
  | 5 => !(a && b)
  | 6 => !(a || b)
  | _ => a == b

def execPlog (op : Op) (s : State) : Out :=
  perform op s fun s =>
    let x := s.srcP op.a op.la
    let y := x.2.srcP op.b op.lb
    y.2.putP op.dst 0 (logF op.modifier x.1 y.1)

/-- The predicates as a word, `p0` in bit 0 (R121). -/
def Regs.packP (r : Regs) : Word := (r.p ||| 1#16).setWidth 64

/-- Move, pack or unpack predicates (R121). -/
def execPmov (op : Op) (s : State) : Out :=
  perform op s fun s =>
    let r := (s.prim s.iss.core).regs
    match op.xbits 0 2 with
    | 0 =>
      let x := s.srcP op.a op.la
      x.2.putP op.dst 0 x.1
    | 1 => s.putS op 1 0 r.packP
    | _ =>
      let x := s.srcS op.a op.la
      x.2.fly (mkFlight s.iss.slot .pAll 0 false 1 false 0 ((x.1 &&& 0xFFFF).setWidth 4096))

/-- `p[c]` ? `s[a]` : `s[b]`; on a scavenger the condition is `h[c]` ≠ 0 (R104, R122). -/
def execSel (op : Op) (s : State) : Out :=
  perform op s fun s =>
    match s.iss.thr with
    | .prim =>
      let x := s.srcAB op
      let c := x.2.2.srcP op.c op.lc
      c.2.putS op 1 0 (if c.1 then x.1 else x.2.1)
    | .scav _ =>
      let x := s.srcABC op
      x.2.2.2.putS op 1 0 (if x.2.2.1 != 0 then x.1 else x.2.1)

end Sys2Proof.Machine
end

