-- ==== Sys2Proof/Machine/Matrix.lean ====
section
/-! DEFINITION. Matrix instructions: enqueueing, the sums of steps, latches, tiles, batches, compression (R189 to R210), and
the queue's events (R201, R202). -/

namespace Sys2Proof.Machine

open Sys2Proof

/-! ## The values of an operand (R53, R195 to R199) -/

/-- Bit fields of a run of bytes, as a number. -/
def bitsAt (m lo len : Nat) : Nat := m / 2 ^ lo % 2 ^ len

/-- The value of a UE3M5 block scale (R52). -/
def ue3m5 (b : Nat) : FVal :=
  let e := b / 32
  let m := b % 32
  if b = 0xFF then .nan false
  else if e = 0 then .fin false m (-7)
  else .fin false (32 + m) ((e : Int) - 8)

/-- Where an operand's bytes lie and how they are read: number of rows or columns, stride in bytes, K, compressed or dense. -/
structure OperandShape where
  ty : Ty
  rows : Nat
  stride : Nat
  k : Nat
  compressed : Bool
  scm : Nat
  ftz : Bool
  deriving DecidableEq, Repr

/-- The scale of one element: block scale and band scale (R53, R196). -/
def OperandShape.scale (o : OperandShape) (m i k : Nat) : FVal :=
  let s0 := o.stride * o.rows
  let blk := ue3m5 (bitsAt m (8 * (s0 + i * (o.k / 8) + k / 8)) 8)
  if o.scm = 1 then
    (blk.mul (decodeF (fmtOf .bf16) (bitsAt m (8 * (s0 + o.rows * (o.k / 8) + 2 * (i / 64))) 16))).1
  else blk

/-- The value of stored element `idx` of row i, which stands at dense position k (R198). -/
def OperandShape.val (o : OperandShape) (m i idx k : Nat) : FVal :=
  let w := o.ty.width
  let x := bitsAt m (8 * o.stride * i + w * idx) w
  if o.ty.isFloat then
    let f := fmtOf o.ty
    if o.ftz && isSubnormal f x then .fin (x / 2 ^ (w - 1) % 2 == 1) 0 0
    else if o.ty = .f4e2 then ((decodeF f x).mul (o.scale m i k)).1
    else decodeF f x
  else
    let v := intOf o.ty x
    .fin (decide (v < 0)) v.natAbs 0

/-- The terms of row i: positions with their values, in increasing order of position or of group (R197). -/
def OperandShape.terms (o : OperandShape) (m i : Nat) : List (Nat × FVal) :=
  if o.compressed then
    let meta0 := 8 * (o.stride * i) + o.k / 2 * o.ty.width
    (List.range (o.k / 4)).flatMap fun g =>
      let nib := bitsAt m (meta0 + 4 * g) 4
      let k0 := 4 * g + nib % 4
      let k1 := 4 * g + nib / 4
      [(k0, o.val m i (2 * g) k0), (k1, o.val m i (2 * g + 1) k1)]
  else (List.range o.k).map fun k => (k, o.val m i k k)

/-! ## The sums (R63) -/

/-- The mode of a step's roundings. -/
def stepMode (ftz : Bool) : FMode := ⟨0, false, ftz⟩

/-- The product of two exact values. -/
def prodF (x y : FVal) : FVal := (x.mul y).1

/-- An FP64 step: one fused operation per product. -/
def dot64 (md : FMode) : List (FVal × FVal) → Nat → Nat
  | [], acc => acc
  | p :: l, acc => dot64 md l (fmaF (fmtOf .f64) md p.1 p.2 (decodeF (fmtOf .f64) acc)).bits

/-- An FP32 step: groups of 8 products, each group rounded once. -/
def dot32 (md : FMode) : Nat → List (FVal × FVal) → Nat → Nat
  | 0, _, acc => acc
  | n + 1, l, acc =>
    if l.isEmpty then acc
    else dot32 md n (l.drop 8)
      (sumF (fmtOf .f32) md (decodeF (fmtOf .f32) acc :: (l.take 8).map fun p => prodF p.1 p.2)).bits

/-- The integer of an exact value. -/
def FVal.toI : FVal → Int
  | .fin n m _ => if n then -(m : Int) else m
  | _ => 0

/-- The sum of an output: the incoming accumulator pattern and the pairs of values (R63). -/
def stepSum (ta : Ty) (ftz : Bool) (acc : Nat) (l : List (FVal × FVal)) : Nat :=
  let md := stepMode ftz
  if ta = .f64 then dot64 md l acc
  else if ta = .f32 then dot32 md l.length l acc
  else if ta.isFloat then
    (sumF (fmtOf .f32) md (decodeF (fmtOf .f32) acc :: l.map fun p => prodF p.1 p.2)).bits
  else wrapInt 32 (l.foldl (fun (t : Int) p => t + p.1.toI * p.2.toI) (acc : Int))

/-- The pairs of one output: the compressed operand's terms, or A's, with the other's value at the same position. -/
def pairTerms (aComp bComp : Bool) (ra rb : List (Nat × FVal)) : List (FVal × FVal) :=
  let at_ := fun (r : List (Nat × FVal)) (k : Nat) => ((r[k]?).map Prod.snd).getD (.fin false 0 0)
  if bComp && !aComp then rb.map fun p => (at_ ra p.1, p.2)
  else if aComp then ra.map fun p => (p.2, at_ rb p.1)
  else List.zipWith (fun x y => (x.2, y.2)) ra rb

/-! ## Accumulators (R194) -/

/-- Tile offset and element of an output within its group. -/
def outPlace (nw nt m j : Nat) : Nat × Nat := (m / 16 * nt + j / nw, m % 16 * nw + j % nw)

/-- Run the step of an entry on the tiles (R198): the group's new tiles, tile by tile. -/
def MEntry.result (e : MEntry) (r : Regs) : List Tile :=
  let f := mfmtOf e.mfmt
  let w := if e.cols = 8 * e.nt then 64 else 32
  let k := geomK e.geom
  let sa : OperandShape := ⟨f.ta, e.rows, 8 * geomSA e.geom, k, e.kind == .mmas && f.sp == 1, f.scm, f.ftz⟩
  let sb : OperandShape :=
    ⟨f.tb, e.cols, if e.latch.isSome then elemBytes f.tb k else 8 * geomSB e.geom, k, e.kind == .mmas && f.sp == 2, f.scm, f.ftz⟩
  let ma := bytesToNat e.bytesA
  let mb := bytesToNat e.bytesB
  let ra := (List.range e.rows).map fun i => sa.terms ma i
  let rb := (List.range e.cols).map fun i => sb.terms mb i
  (List.range (e.mt * e.nt)).map fun t =>
    let old := (r.rdA (e.base + t)).toNat
    BitVec.ofNat 8192 (ofLanes w ((List.range (16 * f.pair.nw)).map fun q =>
      let m := t / e.nt * 16 + q / f.pair.nw
      let j := t % e.nt * f.pair.nw + q % f.pair.nw
      let acc := if e.z then 0 else bitsAt old (w * q) w
      stepSum f.ta f.ftz acc (pairTerms sa.compressed sb.compressed ((ra[m]?).getD []) ((rb[j]?).getD []))))

/-- Write a group's tiles from its base. -/
def Regs.wrGroup (r : Regs) (base : Nat) : List Tile → Regs
  | [] => r
  | t :: l => Regs.wrGroup (r.wrA base t) (base + 1) l

/-- The tiles that an entry targets (R206). -/
def MEntry.tiles (e : MEntry) : Nat :=
  match e.kind with
  | .mma | .mmas | .mzero => e.mt * e.nt
  | _ => 0

/-! ## Timing (R201) -/

/-- Division rounded up. -/
def ceilDiv (a b : Nat) : Nat := (a + b - 1) / b

/-- The cycles of an entry's array phase. -/
def MEntry.phase (e : MEntry) : Nat :=
  let f := mfmtOf e.mfmt
  match e.kind with
  | .mma => ceilDiv (e.rows * e.cols * geomK e.geom) f.pair.rate
  | .mmas => ceilDiv (e.rows * e.cols * geomK e.geom) (2 * f.pair.rate)
  | .mzero => 2
  | .mlatch => 16
  | .mcmpr => max 1 (ceilDiv (Word.bits e.geom 48 16 * elemBytes ((mcmprTy e.ty e.esz).getD .f16) (Word.bits e.geom 0 16)) 256)

/-- Place an entry in `Q.MX` with its times, and make its events due. -/
def State.enqueueMx (s : State) (e : MEntry) : State :=
  let c := s.iss.core
  let q := (s.core c).qmx
  let lastFinish := match q.getLast? with | some l => l.finish | none => 0
  let lastComplete := match q.getLast? with | some l => l.complete | none => 0
  let now := s.clock c
  let start := max (now + 1) (if q.isEmpty then 0 else lastFinish + 1)
  let t := e.phase
  let tail := match e.kind with | .mma | .mmas => 10 | _ => 0
  let id := (s.core c).nextId
  let e : MEntry := { e with
    id := id, enq := now, start := start, finish := start + t - 1, complete := max (start + t + tail) lastComplete }
  let s := s.modCore c fun x => { x with qmx := x.qmx ++ [e], nextId := id + 1 }
  let at_ := fun (s : State) (due prio : Nat) (w : Instr) =>
    s.after (due - now) prio w (argId c id)
  at_ (at_ (at_ s start 1 .matrixArrayStart) e.finish 2 .matrixArrayEnd) e.complete 0 .matrixEntryComplete

/-! ## Checks (R191, R206) -/

/-- A blank entry of the issuing primary. -/
def State.newEntry (s : State) (kind : MKind) (op : Op) : MEntry :=
  let p := s.prim s.iss.core
  { id := 0, kind := kind, base := op.dst.toNat, mt := op.xbits 0 2 + 1, nt := op.xbits 2 3 + 1, latch := none, z := false,
    esz := op.esz, ty := 0, mfmt := p.mfmt, a := 0, b := 0, geom := 0, sbt := s.sbt s.iss.core, batch := some p.commits,
    enq := 0, start := 0, finish := 0, complete := 0, bad := false, bytesA := [], bytesB := [] }

/-- The span check of one operand (R191 row 3). -/
def State.spanBad (s : State) (write : Bool) (p len : Nat) : Option Bad :=
  (spanProt (s.core s.iss.core).ctl .prim write p len).map fun f => ⟨codePROT, f.2, BitVec.ofNat 64 f.1, 0⟩

/-- An address that is not a multiple of 8 (R191 row 2). -/
def align8 (a : Word) : Option Bad := if a.toNat % 8 = 0 then none else some ⟨codeALIGN, 0, a, 0⟩

/-- The first tile of a group whose `MWR` result has not landed (R206). -/
def State.unlandedTile (s : State) (base n : Nat) : Option Bad :=
  ((List.range n).find? fun i => (s.prim s.iss.core).flight.any fun f =>
    f.file == .tileHalf && f.reg.toNat % 32 == base + i).map fun i => ⟨codeACCBUSY, 0, BitVec.ofNat 64 (base + i), 0⟩

/-- A tile of a group in `Q.MX` (R206). -/
def State.busyTile (s : State) (t : Nat) : Option Bad :=
  if (s.core s.iss.core).qmx.any fun e => decide (e.base ≤ t) && decide (t < e.base + e.tiles) then
    some ⟨codeACCBUSY, 0, BitVec.ofNat 64 t, 0⟩
  else none

/-- Enqueue a checked entry, or wait for a place (R200). -/
def State.enterMx (s : State) (b : Option Bad) (e : MEntry) : State :=
  s.checked b fun s =>
    if 8 ≤ (s.core s.iss.core).qmx.length then s.block false s.qLimit codeQSTALL 4 else s.enqueueMx e

/-- A step (R191, R195, R198, R199). Of several spans that fail a row, `INFO` names that of A before that of B, and of `MCMPR` the destination's
before the source's (DESIGN CHOICE, log 120). -/
def State.step_ (s : State) (op : Op) (kind : MKind) : State :=
  let f := mfmtOf (s.prim s.iss.core).mfmt
  let a := s.valS op.a op.la
  let bl := op.x12.getLsbD 5
  let b := if bl then 0 else s.valS op.b op.lb
  let g := s.valS op.c op.lc
  let e : MEntry := { s.newEntry kind op with
    latch := if bl then some ⟨op.b.toNat % 4, Nat.mod_lt _ (by decide)⟩ else none
    z := op.x12.getLsbD 6, a := a.toNat, b := b.toNat, geom := g }
  let k := geomK g
  let row1 := Word.bits g 48 16 ≠ 0 ∨ k < 1 ∨ 32768 < k ∨ k % f.pair.granule ≠ 0 ∨ (kind = .mmas ∧ f.sp = 0) ∨
    (bl = true ∧ (2048 < e.cols * elemBytes f.tb k ∨ f.ta = .f4e2 ∨ f.sp = 2))
  let bad := if row1 then some ⟨codeILLOP, 0, s.issWords, 0⟩
    else orBad (align8 a) (orBad (if bl then none else align8 b)
      (orBad (s.spanBad false e.a e.spanA) (orBad (if bl then none else s.spanBad false e.b e.spanB)
        (s.unlandedTile e.base (e.mt * e.nt)))))
  s.enterMx bad e

def execMma (op : Op) (s : State) : Out := perform op s fun s => s.step_ op .mma
def execMmas (op : Op) (s : State) : Out := perform op s fun s => s.step_ op .mmas

/-- Copy 2,048 bytes into a stationary latch in queue order (R203). -/
def execMlatch (op : Op) (s : State) : Out :=
  perform op s fun s =>
    let a := s.valS op.a op.la + Op.imm12 op
    let e : MEntry := { s.newEntry .mlatch op with base := op.dst.toNat % 4, mt := 1, nt := 1, a := a.toNat }
    s.enterMx (orBad (align8 a) (s.spanBad false a.toNat 2048)) e

/-- Zero a group in queue order (R204). -/
def execMzero (op : Op) (s : State) : Out :=
  perform op s fun s =>
    let e := s.newEntry .mzero op
    s.enterMx (s.unlandedTile e.base (e.mt * e.nt)) e

/-- Half a tile to a vector (R205). -/
def execMrd (op : Op) (s : State) : Out :=
  perform op s fun s =>
    s.checked (s.busyTile op.a.toNat) fun s =>
      let t := s.vregs.rdA op.a.toNat
      s.putV op 8 0 (t.extractLsb' (4096 * op.xbits 0 1) 4096)

/-- A vector to half a tile, landing 4 bundles later (R205). -/
def execMwr (op : Op) (s : State) : Out :=
  perform op s fun s =>
    s.checked (s.busyTile op.dst.toNat) fun s =>
      let v := (s.srcV op.a op.la false 64).1
      s.fly { mkFlight s.iss.slot .tileHalf op.dst false 4 false 0 v with half := op.x12.getLsbD 0 }

/-- Whether a batch, counted from the task's first, is complete (R208): every entry of the task up to its last has completed. -/
def State.batchDone (s : State) (n : Nat) : Bool := (s.core s.iss.core).qmx.all fun e => match e.batch with | none => true | some b => decide (n < b)

/-- Close the open batch (R207). -/
def execMcommit (op : Op) (s : State) : Out :=
  perform op s fun s =>
    let n := (s.prim s.iss.core).commits
    if 4 ≤ n ∧ s.batchDone (n - 4) = false then s.block false s.qLimit codeQSTALL 7
    else
      (s.modPrim s.iss.core fun p => { p with commits := n + 1, given := p.given ||| (1#4 <<< (n % 4)) }).putS op 1 0
        (BitVec.ofNat 64 (n % 4))

/-- Wait for a batch, or for `Q.MX` to empty (R208). -/
def execMwait (op : Op) (s : State) : Out :=
  perform op s fun s =>
    let p := s.prim s.iss.core
    let b := if op.x12.getLsbD 3 then (s.valS op.a op.la).toNat % 4 else op.xbits 0 2
    let last := (List.range 4).find? fun i => decide (i < p.commits) && (p.commits - 1 - i) % 4 == b
    let ok := if op.x12.getLsbD 2 then (s.core s.iss.core).qmx.isEmpty
      else match last with
        | none => true
        | some i => !p.given.getLsbD b || s.batchDone (p.commits - 1 - i)
    if ok then s else s.block false s.qLimit codeQSTALL 7

/-- Compress rows two of four in queue order (R209). -/
def execMcmpr (op : Op) (s : State) : Out :=
  perform op s fun s =>
    let a := s.valS op.a op.la
    let b := s.valS op.b op.lb
    let g := s.valS op.c op.lc
    let t := (mcmprTy op.tyCode op.esz).getD .f16
    let k := Word.bits g 0 16
    let rows := Word.bits g 48 16
    let e : MEntry := { s.newEntry .mcmpr op with
      base := 0, mt := 1, nt := 1, ty := op.tyCode, a := a.toNat, b := b.toNat, geom := g }
    let bad :=
      if rows < 1 ∨ 1024 < rows ∨ k < 8 ∨ 32768 < k ∨ k % 8 ≠ 0 then some ⟨codeILLOP, 0, s.issWords, 0⟩
      else orBad (align8 a) (orBad (align8 b)
        (orBad (s.spanBad true a.toNat (mcmprDstSpan t g)) (s.spanBad false b.toNat (mcmprSrcSpan t g))))
    s.enterMx bad e

/-! ## Compression (R209, R210) -/

/-- The rank of a pattern: its magnitude, a NaN above everything (R210). -/
def rankOf (t : Ty) (x : Nat) : Nat :=
  match decodeF (fmtOf t) x with
  | .nan _ => 2 ^ t.width
  | _ => x % 2 ^ (t.width - 1)

/-- How many elements of a group rank above element i: larger rank, or equal rank and lower index (R210). -/
def outranks (t : Ty) (g : List Nat) (i : Nat) : Nat :=
  ((List.range 4).filter fun j =>
    decide (rankOf t (el g i) < rankOf t (el g j)) || (rankOf t (el g i) == rankOf t (el g j) && decide (j < i))).length

/-- The positions a group keeps, increasing (R210). -/
def keptOf (t : Ty) (g : List Nat) : List Nat := (List.range 4).filter fun i => decide (outranks t g i < 2)

/-- The groups of four of a list. -/
def fours : Nat → List Nat → List (List Nat)
  | 0, _ => []
  | n + 1, l => l.take 4 :: fours n (l.drop 4)

/-- The bytes of one compressed row: values, then metadata nibbles (R197, R209). -/
def compressRow (t : Ty) (k : Nat) (row : List Nat) : List Byte :=
  let gs := fours (k / 4) row
  let vals := gs.flatMap fun g => (keptOf t g).map fun i => el g i
  let nibs := gs.map fun g => el (keptOf t g) 0 + 4 * el (keptOf t g) 1
  natToBytes (elemBytes t (k / 2)) (ofLanes t.width vals) ++ natToBytes ((k / 4 + 1) / 2) (ofLanes 4 nibs)

/-- The rows that an `MCMPR` writes: offset and bytes. -/
def MEntry.compressed (e : MEntry) : List (Nat × List Byte) :=
  let t := (mcmprTy e.ty e.esz).getD .f16
  let k := Word.bits e.geom 0 16
  let m := bytesToNat e.bytesA
  (List.range (Word.bits e.geom 48 16)).map fun i =>
    let row := lanes t.width k (m / 2 ^ (64 * Word.bits e.geom 16 16 * i))
    (8 * Word.bits e.geom 32 16 * i, compressRow t k row)

/-! ## The events of `Q.MX` -/

def Core.mxEntry (x : Core) (id : Nat) : Option MEntry := x.qmx.find? fun e => e.id == id
def Core.mapMx (x : Core) (id : Nat) (f : MEntry → MEntry) : Core :=
  { x with qmx := x.qmx.map fun e => if e.id == id then f e else e }

/-- The array phase starts: the operands are read (R201, R202); an uncorrectable error in them marks the entry (R366). -/
def execMatrixArrayStart (s : State) : Out :=
  let c := s.evt.core
  match (s.core c).mxEntry s.evt.id with
  | none => .next s
  | some e =>
    let rd := fun (p n : Nat) => s.readProg c e.sbt p n
    let ba := match e.kind with
      | .mma | .mmas => rd e.a e.spanA
      | .mlatch => rd e.a 2048
      | .mcmpr => rd e.b (mcmprSrcSpan ((mcmprTy e.ty e.esz).getD .f16) e.geom)
      | .mzero => []
    let bb := match e.kind with
      | .mma | .mmas =>
        match e.latch with
        | some l => natToBytes 2048 ((s.prim c).regs.b[l.val]).toNat
        | none => rd e.b e.spanB
      | _ => []
    let spoilt := fun (p n : Nat) => decide (0 < n) && s.progSpoilt c e.sbt p n false
    let bad := spoilt (if e.kind == .mcmpr then e.b else e.a) ba.length || (e.latch.isNone && spoilt e.b bb.length)
    .next (s.modCore c fun x => x.mapMx e.id fun m => { m with bytesA := ba, bytesB := bb, bad := m.bad || bad })

/-- The array phase ends: a latch is written, a compression's bytes are written (R201 to R203, R209); those of an entry with an
uncorrectable error are free (R366). A compression has read its whole source at the start of its phase and writes all its bytes here, row by row,
so that of rows that overlap the later stands (DESIGN CHOICE, log 119). -/
def execMatrixArrayEnd (s : State) : Out :=
  let c := s.evt.core
  match (s.core c).mxEntry s.evt.id with
  | none => .next s
  | some e =>
    match e.kind with
    | .mlatch =>
      let v : Stat := if e.bad then (Config.freeTile s.free ++ Config.freeTile (s.free + 1) : BitVec 16384)
        else BitVec.ofNat 16384 (bytesToNat e.bytesA)
      let s := if e.bad then { s with free := s.free + 2 } else s
      .next (s.modRegs c fun r => { r with b := vset r.b e.base v })
    | .mcmpr =>
      .next (e.compressed.foldl (fun s p =>
        let bs := if e.bad then (List.range p.2.length).map fun i => Config.freeByte (s.free + i) else p.2
        let s := if e.bad then { s with free := s.free + p.2.length } else s
        s.writeProg c e.sbt true (e.a + p.1) bs) s)
    | _ => .next s

/-- An entry completes: accumulators are written and it leaves the queue; an uncorrectable error leaves its outputs free, sets
`MXERR` and sends its record (R201, R204, R366). -/
def execMatrixEntryComplete (s : State) : Out :=
  let c := s.evt.core
  match (s.core c).mxEntry s.evt.id with
  | none => .next s
  | some e =>
    let tiles := match e.kind with
      | .mma | .mmas => e.result (s.prim c).regs
      | .mzero => List.replicate (e.mt * e.nt) 0
      | _ => []
    let tiles := if e.bad then (List.range e.tiles).map fun i => Config.freeTile (s.free + i) else tiles
    let s := if e.bad then
        (({ s with free := s.free + e.tiles }).modPrim c fun p => { p with mxerr := true }).sendSerr c 9 e.base
      else s
    let s := s.modRegs c fun r => r.wrGroup e.base tiles
    .next (s.modCore c fun x => { x with qmx := x.qmx.filter fun m => m.id != e.id })

end Sys2Proof.Machine
end

