-- ==== Sys2Proof/Machine/Trans.lean ====
section
/-! DEFINITION. The transcendental approximations (R185, R186): the exact value rounded once to `.f32`, and once more for
the 16-bit formats. Values are formed in 256-bit fixed point, far below any rounding boundary that a 24-bit operand can come
near (log 8). -/

namespace Sys2Proof.Machine

open Sys2Proof

/-- The fraction bits of the fixed point. -/
def fixP : Nat := 256
/-- ln 2 and log2 e in fixed point, rounded down. -/
def fixLn2 : Nat := 80260960185991308862233904206310070533990667611589946606122867505419956976171
def fixLog2e : Nat := 167052672916848388242985626561247531987276682633131050150846402744536260568207

/-- The exponential series: the terms g^k / k! from k on. -/
def expSeries (g : Nat) : Nat → Nat → Nat → Nat → Nat
  | 0, _, _, acc => acc
  | n + 1, k, term, acc => let t := term * g / 2 ^ fixP / k; expSeries g n (k + 1) t (acc + t)

/-- 2^f for a fraction f, in fixed point. -/
def exp2Frac (f : Nat) : Nat := expSeries (f * fixLn2 / 2 ^ fixP) 70 1 (2 ^ fixP) (2 ^ fixP)

/-- The series of artanh: the terms z^(2k+1) / (2k+1). -/
def atanhSeries (z2 : Nat) : Nat → Nat → Nat → Nat → Nat
  | 0, _, _, acc => acc
  | n + 1, k, term, acc => atanhSeries z2 n (k + 2) (term * z2 / 2 ^ fixP) (acc + term / k)

/-- log2 (m / 2^b) for 2^b ≤ m < 2^(b+1), in fixed point. -/
def log2Frac (m b : Nat) : Nat :=
  let z := (m - 2 ^ b) * 2 ^ fixP / (m + 2 ^ b)
  2 * atanhSeries (z * z / 2 ^ fixP) 90 1 z 0 * fixLog2e / 2 ^ fixP

/-- An inexact value in fixed point: a sticky bit below its last bit. -/
def roundFix (md : FMode) (neg : Bool) (y : Nat) (e : Int) : FRes := roundTo (fmtOf .f32) md neg (2 * y + 1) (e - (fixP : Int) - 1)

/-- 2^x (R185, R186). -/
def exp2F (md : FMode) (x : FVal) : FRes :=
  let f := fmtOf .f32
  match x with
  | .nan s => nanRes f (if s then flagNV else 0)
  | .inf n => FRes.of (if n then 0 else f.infBits)
  | .fin neg m e =>
    if m = 0 then roundTo f md false 1 0
    else if (10 : Int) ≤ (Nat.log2 m : Int) + e then roundTo f md false 1 (if neg then -400 else 400)
    else
      let fx : Int := (if neg then -1 else 1) * ((m * 2 ^ ((fixP : Int) + e).toNat : Nat) : Int)
      let n := fx / 2 ^ fixP
      let fr := (fx % 2 ^ fixP).toNat
      if fr = 0 then roundTo f md false 1 n else roundFix md false (exp2Frac fr) n

/-- log2 x (R185, R186). -/
def log2F (md : FMode) (x : FVal) : FRes :=
  let f := fmtOf .f32
  match x with
  | .nan s => nanRes f (if s then flagNV else 0)
  | .inf n => if n then nanRes f flagNV else FRes.of f.infBits
  | .fin neg m e =>
    if m = 0 then ⟨f.signBit true + f.infBits, flagDZ, false⟩
    else if neg then nanRes f flagNV
    else
      let b := Nat.log2 m
      let n : Int := (b : Int) + e
      if m = 2 ^ b then (if n = 0 then FRes.of 0 else roundTo f md (decide (n < 0)) n.natAbs 0)
      else
        let v : Int := n * 2 ^ fixP + (log2Frac m b : Int)
        roundFix md (decide (v < 0)) v.natAbs 0

/-- 1/x (R185, R186). -/
def rcpF (md : FMode) (x : FVal) : FRes := divF (fmtOf .f32) md (.fin false 1 0) x

/-- 1/√x (R185, R186). -/
def rsqF (md : FMode) (x : FVal) : FRes :=
  let f := fmtOf .f32
  match x with
  | .nan s => nanRes f (if s then flagNV else 0)
  | .inf n => if n then nanRes f flagNV else FRes.of 0
  | .fin neg m e =>
    if m = 0 then ⟨f.signBit neg + f.infBits, flagDZ, false⟩
    else if neg then nanRes f flagNV
    else
      let m1 := if e % 2 = 1 then 2 * m else m
      let e1 := if e % 2 = 1 then e - 1 else e
      let r := isqrt (2 ^ 160 / m1) 81 0
      roundTo f md false (2 * r + (if r * r * m1 = 2 ^ 160 then 0 else 1)) (-81 - e1 / 2)

/-- tanh x (R185, R186): near zero the exact value lies just below |x|, far from it just below 1. -/
def tanhF (md : FMode) (x : FVal) : FRes :=
  let f := fmtOf .f32
  match x with
  | .nan s => nanRes f (if s then flagNV else 0)
  | .inf n => FRes.of (f.signBit n + f.bias * 2 ^ f.mbits)
  | .fin neg m e =>
    let mag : Int := (Nat.log2 m : Int) + e
    if m = 0 then FRes.of (f.signBit neg)
    else if mag < -40 then roundTo f md neg (m * 2 ^ 64 - 1) (e - 64)
    else if 5 ≤ mag then roundTo f md neg (2 ^ 64 - 1) (-64)
    else
      let u := 2 * (m * 2 ^ ((fixP : Int) + e).toNat) * fixLog2e / 2 ^ fixP
      let n := u / 2 ^ fixP
      let fr := u % 2 ^ fixP
      let t := if fr = 0 then 2 ^ fixP / 2 ^ n else exp2Frac (2 ^ fixP - fr) / 2 ^ (n + 1)
      roundFix md neg ((2 ^ fixP - t) * 2 ^ fixP / (2 ^ fixP + t)) 0

/-- A result in `.f32` delivered in the element type (R185, R186). -/
def deliverF (t : Ty) (md : FMode) (r : FRes) : FRes :=
  if t = .f32 then r
  else
    let q := convF (fmtOf t) md (decodeF (fmtOf .f32) r.bits)
    ⟨q.bits, q.flg ||| r.flg, q.tiny⟩

/-- An approximation under the write mask (R185). -/
def transV (op : Op) (g : FMode → FVal → FRes) (s : State) : Out :=
  let t := arithTy op
  let md : FMode := ⟨0, false, flushOf op⟩
  lanewise op 1 t.width 8 (fun x _ _ => deliverF t md (g md (operandF (fmtOf t) md.ftz x))) s

def execVexp2 (op : Op) (s : State) : Out := transV op exp2F s
def execVlog2 (op : Op) (s : State) : Out := transV op log2F s
def execVrcp (op : Op) (s : State) : Out := transV op rcpF s
def execVrsq (op : Op) (s : State) : Out := transV op rsqF s
def execVtanh (op : Op) (s : State) : Out := transV op tanhF s

end Sys2Proof.Machine
end

