-- ==== Sys2Proof/Machine/Dispatch.lean ====
section
/-! DEFINITION. The dispatch: one meaning for each step of the table of operations and events. -/

namespace Sys2Proof.Machine

open Sys2Proof

/-- The meaning of a step. -/
def exec (i : Instr) (s : State) : Host.Outcome State Fault Refusal :=
  match i with
  | .bundleFetch => Sys2Proof.Machine.execBundleFetch s
  | .resultLanding => Sys2Proof.Machine.execResultLanding s
  | .drainWaitEnd => Sys2Proof.Machine.execDrainWaitEnd s
  | .blockingPointRelease => Sys2Proof.Machine.execBlockingPointRelease s
  | .qstall => Sys2Proof.Machine.execQstall s
  | .fewait => Sys2Proof.Machine.execFewait s
  | .portstall => Sys2Proof.Machine.execPortstall s
  | .barrelTurn => Sys2Proof.Machine.execBarrelTurn s
  | .scavengerAccessRetry => Sys2Proof.Machine.execScavengerAccessRetry s
  | .scavengerLongResult => Sys2Proof.Machine.execScavengerLongResult s
  | .normaliserForfeitEnd => Sys2Proof.Machine.execNormaliserForfeitEnd s
  | .yieldEnd => Sys2Proof.Machine.execYieldEnd s
  | .wpSwitch => Sys2Proof.Machine.execWpSwitch s
  | .scavengerCacheFill => Sys2Proof.Machine.execScavengerCacheFill s
  | .scavengerCacheWritebackAck => Sys2Proof.Machine.execScavengerCacheWritebackAck s
  | .messageArrival => Sys2Proof.Machine.execMessageArrival s
  | .messageRefusalResend => Sys2Proof.Machine.execMessageRefusalResend s
  | .dispatch => Sys2Proof.Machine.execDispatch s
  | .deliveryComplete => Sys2Proof.Machine.execDeliveryComplete s
  | .launchOffer => Sys2Proof.Machine.execLaunchOffer s
  | .nestClaim => Sys2Proof.Machine.execNestClaim s
  | .claimResponse => Sys2Proof.Machine.execClaimResponse s
  | .bodyEntry => Sys2Proof.Machine.execBodyEntry s
  | .launchAllocation => Sys2Proof.Machine.execLaunchAllocation s
  | .cancelApply => Sys2Proof.Machine.execCancelApply s
  | .hardCancelPreemption => Sys2Proof.Machine.execHardCancelPreemption s
  | .hardCancelAck => Sys2Proof.Machine.execHardCancelAck s
  | .unitEndReport => Sys2Proof.Machine.execUnitEndReport s
  | .workRecordWrite => Sys2Proof.Machine.execWorkRecordWrite s
  | .queueEntryStart => Sys2Proof.Machine.execQueueEntryStart s
  | .engineOperationComplete => Sys2Proof.Machine.execEngineOperationComplete s
  | .matrixArrayStart => Sys2Proof.Machine.execMatrixArrayStart s
  | .matrixArrayEnd => Sys2Proof.Machine.execMatrixArrayEnd s
  | .matrixEntryComplete => Sys2Proof.Machine.execMatrixEntryComplete s
  | .remoteAccessAtHome => Sys2Proof.Machine.execRemoteAccessAtHome s
  | .ratomAtHome => Sys2Proof.Machine.execRatomAtHome s
  | .decrAtHome => Sys2Proof.Machine.execDecrAtHome s
  | .fullEmptyRemoteArrival => Sys2Proof.Machine.execFullEmptyRemoteArrival s
  | .parkedAccessService => Sys2Proof.Machine.execParkedAccessService s
  | .parkBoundExpiry => Sys2Proof.Machine.execParkBoundExpiry s
  | .parkRefusalResend => Sys2Proof.Machine.execParkRefusalResend s
  | .faultNotice => Sys2Proof.Machine.execFaultNotice s
  | .xwakeRetry => Sys2Proof.Machine.execXwakeRetry s
  | .xwakeRefuse => Sys2Proof.Machine.execXwakeRefuse s
  | .wakeAtRequester => Sys2Proof.Machine.execWakeAtRequester s
  | .collectiveSourceRead => Sys2Proof.Machine.execCollectiveSourceRead s
  | .collectiveRootCombine => Sys2Proof.Machine.execCollectiveRootCombine s
  | .collectiveResultArrival => Sys2Proof.Machine.execCollectiveResultArrival s
  | .collectiveGroupWrite => Sys2Proof.Machine.execCollectiveGroupWrite s
  | .collectiveAbort => Sys2Proof.Machine.execCollectiveAbort s
  | .portValueArrival => Sys2Proof.Machine.execPortValueArrival s
  | .portCreditReturn => Sys2Proof.Machine.execPortCreditReturn s
  | .portqFlush => Sys2Proof.Machine.execPortqFlush s
  | .pagerRequestArrival => Sys2Proof.Machine.execPagerRequestArrival s
  | .evictionWaitExpiry => Sys2Proof.Machine.execEvictionWaitExpiry s
  | .blockCopyDone => Sys2Proof.Machine.execBlockCopyDone s
  | .junctionCompletionPoint => Sys2Proof.Machine.execJunctionCompletionPoint s
  | .xkvgLowWaterReport => Sys2Proof.Machine.execXkvgLowWaterReport s
  | .reclaim => Sys2Proof.Machine.execReclaim s
  | .touchClamp => Sys2Proof.Machine.execTouchClamp s
  | .arenaDescriptorWrite => Sys2Proof.Machine.execArenaDescriptorWrite s
  | .checkpointFreeze => Sys2Proof.Machine.execCheckpointFreeze s
  | .checkpointEnd => Sys2Proof.Machine.execCheckpointEnd s
  | .powerFailWarning => Sys2Proof.Machine.execPowerFailWarning s
  | .powerGoodResume => Sys2Proof.Machine.execPowerGoodResume s
  | .powerGating => Sys2Proof.Machine.execPowerGating s
  | .tileWake => Sys2Proof.Machine.execTileWake s
  | .captureStart => Sys2Proof.Machine.execCaptureStart s
  | .captureEnd => Sys2Proof.Machine.execCaptureEnd s
  | .contextResume => Sys2Proof.Machine.execContextResume s
  | .ringRecordWrite => Sys2Proof.Machine.execRingRecordWrite s
  | .supervisorHandlerEntry => Sys2Proof.Machine.execSupervisorHandlerEntry s
  | .supervisorRestart => Sys2Proof.Machine.execSupervisorRestart s
  | .sbtMap => Sys2Proof.Machine.execSbtMap s
  | .sbtSpill => Sys2Proof.Machine.execSbtSpill s
  | .sbtFill => Sys2Proof.Machine.execSbtFill s
  | .spillFillDone => Sys2Proof.Machine.execSpillFillDone s
  | .taskTableWrite => Sys2Proof.Machine.execTaskTableWrite s
  | .memoryMapTableWrite => Sys2Proof.Machine.execMemoryMapTableWrite s
  | .hostMessagePost => Sys2Proof.Machine.execHostMessagePost s
  | .hostMemoryAccess => Sys2Proof.Machine.execHostMemoryAccess s
  | .semaphoreRead => Sys2Proof.Machine.execSemaphoreRead s
  | .semaphoreRelease => Sys2Proof.Machine.execSemaphoreRelease s
  | .hostLinkDown => Sys2Proof.Machine.execHostLinkDown s
  | .pwcapWrite => Sys2Proof.Machine.execPwcapWrite s
  | .epochBoundary => Sys2Proof.Machine.execEpochBoundary s
  | .clockStopEnd => Sys2Proof.Machine.execClockStopEnd s
  | .migrationRequest => Sys2Proof.Machine.execMigrationRequest s
  | .migration => Sys2Proof.Machine.execMigration s
  | .uncorrectableError => Sys2Proof.Machine.execUncorrectableError s
  | .spareRowReplacement => Sys2Proof.Machine.execSpareRowReplacement s
  | .peerLinkRetrain => Sys2Proof.Machine.execPeerLinkRetrain s
  | .hostReset => Sys2Proof.Machine.execHostReset s
  | .powerOnBoot => Sys2Proof.Machine.execPowerOnBoot s
  | .imageLoad => Sys2Proof.Machine.execImageLoad s
  | .getVersion => Sys2Proof.Machine.execGetVersion s
  | .getCapabilities => Sys2Proof.Machine.execGetCapabilities s
  | .negotiateAlgorithms => Sys2Proof.Machine.execNegotiateAlgorithms s
  | .getDigests => Sys2Proof.Machine.execGetDigests s
  | .getCertificate => Sys2Proof.Machine.execGetCertificate s
  | .challenge => Sys2Proof.Machine.execChallenge s
  | .getMeasurements => Sys2Proof.Machine.execGetMeasurements s
  | .br op => Sys2Proof.Machine.execBr op s
  | .brp op => Sys2Proof.Machine.execBrp op s
  | .loop op => Sys2Proof.Machine.execLoop op s
  | .bri op => Sys2Proof.Machine.execBri op s
  | .call op => Sys2Proof.Machine.execCall op s
  | .calli op => Sys2Proof.Machine.execCalli op s
  | .ret op => Sys2Proof.Machine.execRet op s
  | .brc op => Sys2Proof.Machine.execBrc op s
  | .tend op => Sys2Proof.Machine.execTend op s
  | .trap op => Sys2Proof.Machine.execTrap op s
  | .sys op => Sys2Proof.Machine.execSys op s
  | .nopb op => Sys2Proof.Machine.execNopb op s
  | .eret op => Sys2Proof.Machine.execEret op s
  | .add op => Sys2Proof.Machine.execAdd op s
  | .sub op => Sys2Proof.Machine.execSub op s
  | .and op => Sys2Proof.Machine.execAnd op s
  | .or op => Sys2Proof.Machine.execOr op s
  | .xor op => Sys2Proof.Machine.execXor op s
  | .andn op => Sys2Proof.Machine.execAndn op s
  | .min op => Sys2Proof.Machine.execMin op s
  | .max op => Sys2Proof.Machine.execMax op s
  | .minn op => Sys2Proof.Machine.execMinn op s
  | .maxn op => Sys2Proof.Machine.execMaxn op s
  | .shl op => Sys2Proof.Machine.execShl op s
  | .shr op => Sys2Proof.Machine.execShr op s
  | .sar op => Sys2Proof.Machine.execSar op s
  | .rotl op => Sys2Proof.Machine.execRotl op s
  | .clz op => Sys2Proof.Machine.execClz op s
  | .ctz op => Sys2Proof.Machine.execCtz op s
  | .popc op => Sys2Proof.Machine.execPopc op s
  | .ext op => Sys2Proof.Machine.execExt op s
  | .ins op => Sys2Proof.Machine.execIns op s
  | .mul op => Sys2Proof.Machine.execMul op s
  | .mulh op => Sys2Proof.Machine.execMulh op s
  | .mulhn op => Sys2Proof.Machine.execMulhn op s
  | .div op => Sys2Proof.Machine.execDiv op s
  | .divn op => Sys2Proof.Machine.execDivn op s
  | .rem op => Sys2Proof.Machine.execRem op s
  | .remn op => Sys2Proof.Machine.execRemn op s
  | .addi op => Sys2Proof.Machine.execAddi op s
  | .movi op => Sys2Proof.Machine.execMovi op s
  | .movhi op => Sys2Proof.Machine.execMovhi op s
  | .cmp op => Sys2Proof.Machine.execCmp op s
  | .cmpi op => Sys2Proof.Machine.execCmpi op s
  | .plog op => Sys2Proof.Machine.execPlog op s
  | .pmov op => Sys2Proof.Machine.execPmov op s
  | .sel op => Sys2Proof.Machine.execSel op s
  | .fadd op => Sys2Proof.Machine.execFadd op s
  | .fsub op => Sys2Proof.Machine.execFsub op s
  | .fmul op => Sys2Proof.Machine.execFmul op s
  | .fma op => Sys2Proof.Machine.execFma op s
  | .fmin op => Sys2Proof.Machine.execFmin op s
  | .fmax op => Sys2Proof.Machine.execFmax op s
  | .fdiv op => Sys2Proof.Machine.execFdiv op s
  | .fsqrt op => Sys2Proof.Machine.execFsqrt op s
  | .fcmp op => Sys2Proof.Machine.execFcmp op s
  | .fcvt op => Sys2Proof.Machine.execFcvt op s
  | .fclass op => Sys2Proof.Machine.execFclass op s
  | .mfc op => Sys2Proof.Machine.execMfc op s
  | .mtc op => Sys2Proof.Machine.execMtc op s
  | .msetf op => Sys2Proof.Machine.execMsetf op s
  | .rdts op => Sys2Proof.Machine.execRdts op s
  | .rdres op => Sys2Proof.Machine.execRdres op s
  | .ld op => Sys2Proof.Machine.execLd op s
  | .st op => Sys2Proof.Machine.execSt op s
  | .vld op => Sys2Proof.Machine.execVld op s
  | .vlds op => Sys2Proof.Machine.execVlds op s
  | .vldb op => Sys2Proof.Machine.execVldb op s
  | .vst op => Sys2Proof.Machine.execVst op s
  | .vsts op => Sys2Proof.Machine.execVsts op s
  | .vldx op => Sys2Proof.Machine.execVldx op s
  | .vstx op => Sys2Proof.Machine.execVstx op s
  | .ldacq op => Sys2Proof.Machine.execLdacq op s
  | .strel op => Sys2Proof.Machine.execStrel op s
  | .ldf op => Sys2Proof.Machine.execLdf op s
  | .stf op => Sys2Proof.Machine.execStf op s
  | .ldfe op => Sys2Proof.Machine.execLdfe op s
  | .atom op => Sys2Proof.Machine.execAtom op s
  | .cas op => Sys2Proof.Machine.execCas op s
  | .ldc op => Sys2Proof.Machine.execLdc op s
  | .stc op => Sys2Proof.Machine.execStc op s
  | .flushc op => Sys2Proof.Machine.execFlushc op s
  | .vadd op => Sys2Proof.Machine.execVadd op s
  | .vsub op => Sys2Proof.Machine.execVsub op s
  | .vmin op => Sys2Proof.Machine.execVmin op s
  | .vmax op => Sys2Proof.Machine.execVmax op s
  | .vabs op => Sys2Proof.Machine.execVabs op s
  | .vneg op => Sys2Proof.Machine.execVneg op s
  | .vmul op => Sys2Proof.Machine.execVmul op s
  | .vfma op => Sys2Proof.Machine.execVfma op s
  | .vfms op => Sys2Proof.Machine.execVfms op s
  | .vand op => Sys2Proof.Machine.execVand op s
  | .vor op => Sys2Proof.Machine.execVor op s
  | .vxor op => Sys2Proof.Machine.execVxor op s
  | .vshl op => Sys2Proof.Machine.execVshl op s
  | .vshr op => Sys2Proof.Machine.execVshr op s
  | .vsar op => Sys2Proof.Machine.execVsar op s
  | .vcmp op => Sys2Proof.Machine.execVcmp op s
  | .vsel op => Sys2Proof.Machine.execVsel op s
  | .klog op => Sys2Proof.Machine.execKlog op s
  | .vpopk op => Sys2Proof.Machine.execVpopk op s
  | .vcvt op => Sys2Proof.Machine.execVcvt op s
  | .vpack op => Sys2Proof.Machine.execVpack op s
  | .vunpk op => Sys2Proof.Machine.execVunpk op s
  | .vred op => Sys2Proof.Machine.execVred op s
  | .vscan op => Sys2Proof.Machine.execVscan op s
  | .vperm op => Sys2Proof.Machine.execVperm op s
  | .vslide op => Sys2Proof.Machine.execVslide op s
  | .vcompr op => Sys2Proof.Machine.execVcompr op s
  | .vext op => Sys2Proof.Machine.execVext op s
  | .vins op => Sys2Proof.Machine.execVins op s
  | .vmov op => Sys2Proof.Machine.execVmov op s
  | .vbcast op => Sys2Proof.Machine.execVbcast op s
  | .vexp2 op => Sys2Proof.Machine.execVexp2 op s
  | .vlog2 op => Sys2Proof.Machine.execVlog2 op s
  | .vrcp op => Sys2Proof.Machine.execVrcp op s
  | .vrsq op => Sys2Proof.Machine.execVrsq op s
  | .vtanh op => Sys2Proof.Machine.execVtanh op s
  | .vord op => Sys2Proof.Machine.execVord op s
  | .vhist op => Sys2Proof.Machine.execVhist op s
  | .mma op => Sys2Proof.Machine.execMma op s
  | .mmas op => Sys2Proof.Machine.execMmas op s
  | .mlatch op => Sys2Proof.Machine.execMlatch op s
  | .mzero op => Sys2Proof.Machine.execMzero op s
  | .mrd op => Sys2Proof.Machine.execMrd op s
  | .mwr op => Sys2Proof.Machine.execMwr op s
  | .mcommit op => Sys2Proof.Machine.execMcommit op s
  | .mwait op => Sys2Proof.Machine.execMwait op s
  | .mcmpr op => Sys2Proof.Machine.execMcmpr op s
  | .xcp op => Sys2Proof.Machine.execXcp op s
  | .xcp2 op => Sys2Proof.Machine.execXcp2 op s
  | .xga op => Sys2Proof.Machine.execXga op s
  | .xsc op => Sys2Proof.Machine.execXsc op s
  | .xkvg op => Sys2Proof.Machine.execXkvg op s
  | .xcoll op => Sys2Proof.Machine.execXcoll op s
  | .fence op => Sys2Proof.Machine.execFence op s
  | .xfence op => Sys2Proof.Machine.execXfence op s
  | .xdfence op => Sys2Proof.Machine.execXdfence op s
  | .drain op => Sys2Proof.Machine.execDrain op s
  | .pfence op => Sys2Proof.Machine.execPfence op s
  | .ratom op => Sys2Proof.Machine.execRatom op s
  | .decr op => Sys2Proof.Machine.execDecr op s
  | .rldf op => Sys2Proof.Machine.execRldf op s
  | .rstf op => Sys2Proof.Machine.execRstf op s
  | .send op => Sys2Proof.Machine.execSend op s
  | .push op => Sys2Proof.Machine.execPush op s
  | .pop op => Sys2Proof.Machine.execPop op s
  | .pusht op => Sys2Proof.Machine.execPusht op s
  | .popt op => Sys2Proof.Machine.execPopt op s
  | .twaita op => Sys2Proof.Machine.execTwaita op s
  | .twaity op => Sys2Proof.Machine.execTwaity op s
  | .tfind op => Sys2Proof.Machine.execTfind op s
  | .tclr op => Sys2Proof.Machine.execTclr op s
  | .cntw op => Sys2Proof.Machine.execCntw op s
  | .launch op => Sys2Proof.Machine.execLaunch op s
  | .spawn op => Sys2Proof.Machine.execSpawn op s
  | .cancel op => Sys2Proof.Machine.execCancel op s
  | .kvmatch op => Sys2Proof.Machine.execKvmatch op s
  | .kvins op => Sys2Proof.Machine.execKvins op s
  | .kvapp op => Sys2Proof.Machine.execKvapp op s
  | .kvrel op => Sys2Proof.Machine.execKvrel op s
  | .kvpin op => Sys2Proof.Machine.execKvpin op s
  | .kvdem op => Sys2Proof.Machine.execKvdem op s
  | .kvprom op => Sys2Proof.Machine.execKvprom op s
  | .waitw op => Sys2Proof.Machine.execWaitw op s
  | .yield op => Sys2Proof.Machine.execYield op s
  | .setwp op => Sys2Proof.Machine.execSetwp op s
  | .pckpt op => Sys2Proof.Machine.execPckpt op s
  | .svwin op => Sys2Proof.Machine.execSvwin op s
  | .svres op => Sys2Proof.Machine.execSvres op s
  | .xlinv op => Sys2Proof.Machine.execXlinv op s
  | .moveCopyEnd => Sys2Proof.Machine.execMoveCopyEnd s
  | .gatingEnd => Sys2Proof.Machine.execGatingEnd s
  | .recoveryImageWrite => Sys2Proof.Machine.execRecoveryImageWrite s

end Sys2Proof.Machine
end

