-- ==== Sys2Proof/Machine/Step.lean ====
section
/-! DEFINITION. One step of the package: the step due first is taken from the agenda and performed; a bundle's or a turn's
operations perform in their order, each by its own meaning, and its end follows. With no step due, one cycle passes. -/

namespace Sys2Proof.Machine

open Sys2Proof

/-- Perform the operations of the bundle or turn in progress, each in its slot (R22, R142); one that reads a register with an uncorrectable
error faults (R514). -/
def runOps : List IssOp → State → Host.Outcome State Fault Refusal
  | [], s => .next s
  | o :: l, s =>
    match s.iss.bad.find? fun b => b.1 == o.slot with
    | some b => runOps l (s.readError o b.2)
    | none =>
      match exec o.instr { s with iss := { s.iss with slot := o.slot, waddr := o.waddr } } with
      | .next t => runOps l t
      | .fault r => .fault r
      | .refused r => .refused r

/-- What follows a step that has begun a bundle or an operation of a scavenger. -/
def finish (t : State) : Host.Outcome State Fault Refusal :=
  if t.iss.live then
    match runOps t.iss.ops t.beginBundle with
    | .next u => .next (State.endIssue t u)
    | .fault r => .fault r
    | .refused r => .refused r
  else .next t

/-- The state in which the step at the head of the agenda is performed. -/
def State.begin (s : State) (it : Item) (rest : List Item) : State :=
  { s with agenda := rest, cycle := max s.cycle it.due, evt := it.arg, iss := Issue.idle }

/-- One step of the machine. -/
def step (s : State) : Host.Outcome State Fault Refusal :=
  match s.agenda with
  | [] => .next { s with cycle := s.cycle + 1 }
  | it :: rest =>
    match exec it.what (s.begin it rest) with
    | .next t => finish t
    | .fault r => .fault r
    | .refused r => .refused r

/-- The core on which a placed instruction runs: a supervisor's for the privileged operations (R16), else core 9. -/
def placeCore (w : Nat) : CoreId :=
  let ma := w / 8 % 64
  if ma = 0x3A ∨ (ma = 0x03 ∧ w / 512 % 8 = 4) then coreOfNat 1 else coreOfNat 9

/-- Whether only a scavenger executes the operations of a word's major (R92). -/
def placeScav (w : Nat) : Bool := w / 8 % 64 == 0x1B || w / 8 % 64 == 0x38

/-- The state with one instruction as the whole code section of a core, its program counter at it and its fetch the step that
is due first: it stands for the load of a program (log 9). -/
def State.withFetchWord (s : State) (nbits w : Nat) : State :=
  let c := placeCore w
  let s := s.modCore c fun x => { x with code := tableWords nbits w }
  if placeScav w then
    let s := s.modScav c 0 fun x =>
      { x with pc := 0, code := tableWords nbits w, st := .ready, wait := none, win := none, pendWp := none, entryFrom := none
               omitAt := none, ask := none }
    { s with agenda := { due := s.cycle, prio := 3, what := .barrelTurn, arg := argThr c (.scav 0) } :: s.agenda }
  else
    let s := s.modPrim c fun p =>
      { p with pc := 0, mode := .running, br := Pending.clear, entryFrom := none, hold := none, replay := 0, omitAt := none }
    { s with agenda := { due := s.cycle, prio := 1, what := .bundleFetch, arg := EvArg.ofCore c } :: s.agenda }

end Sys2Proof.Machine
end

