-- ==== Sys2Proof/Safety.lean ====
section
/-! DEFINITION. What a safe run is: some number of steps that each answer a next state, with an invariant of the package's
memory; and the terms in which claims are stated: when an operation runs, and what it may change. -/

namespace Sys2Proof.Machine

open Sys2Proof

/-- Strictly rising numbers. -/
def rising : List Nat → Bool
  | [] => true
  | [_] => true
  | a :: b :: l => decide (a < b) && rising (b :: l)

/-- The memory's canonical form: the bytes that are not zero in rising order, and the empty doublewords in rising order. -/
def State.memWf (s : State) : Bool := Memory.wf s.mem && rising s.empty

/-- A step goes on. -/
def goesOn (s : State) : Prop := ∃ t, step s = .next t

/-- A run of n steps that goes on. -/
def runsTo : Nat → State → State → Prop
  | 0, s, t => s = t
  | n + 1, s, t => ∃ u, step s = .next u ∧ runsTo n u t

/-- A safe run: every state of it has its memory in canonical form. -/
def safeRun (n : Nat) (s : State) : Prop := ∀ k t, k ≤ n → runsTo k s t → t.memWf = true

/-- A primary's countdowns after a number of ticks (R21). -/
def State.ticks (c : CoreId) : Nat → State → State
  | 0, s => s
  | n + 1, s => State.ticks c n (s.tick c)

/-! ## Queues and records -/

/-- No queue of a core holds more entries than it has places: the engine queues (R217, R251), the injection buffer (R218), `Q.MX` (R200), the
park table (R238) and the message ring (R296). -/
def Core.queuesHold (x : Core) : Bool :=
  decide (x.qcp.length ≤ 16) && decide (x.qga.length ≤ 16) && decide (x.qco.length ≤ 8) && decide (x.qkv.length ≤ 8) &&
    decide (x.inj.length ≤ 16) && decide (x.qmx.length ≤ 8) && decide (x.park.length ≤ 64) && decide (x.ring.length ≤ 32)

/-- A halted primary has the record of its fault (R370). -/
def Prim.haltRecorded (p : Prim) : Bool := p.mode != .halted || p.fault.isSome

/-- Every core's queues hold what they have places for, its primary is not halted without a record, and no tile's deque holds more than 64
messages (R302). -/
def State.bounded (s : State) : Prop :=
  (∀ c, (s.core c).queuesHold = true ∧ (s.prim c).haltRecorded = true) ∧ ∀ i, (s.tile i).deque.length ≤ 64

/-! ## When an operation runs -/

/-- The pops that an operation's fields name can be served: each direction has a neighbour, and its queue holds enough values (R168,
R441, R443). -/
def State.popsServed (s : State) (op : Op) : Bool :=
  (popDirs op).all fun d =>
    (s.neighbour s.iss.core d).isSome && decide ((popDirs op).count d ≤ s.queued s.iss.core s.iss.thr d)

/-- An operation runs: its predicate holds and its pops can be served. -/
def State.runs (s : State) (op : Op) : Bool := s.holds op && s.popsServed op

/-! ## What an operation may change -/

/-- Only one core, the steps due and the bundle in progress differ. -/
def State.onlyCore (s t : State) (c : CoreId) : Prop :=
  t = { s with cores := t.cores, agenda := t.agenda, iss := t.iss } ∧ (∀ d, d ≠ c → t.core d = s.core d) ∧
    t.iss.core = s.iss.core ∧ t.iss.thr = s.iss.thr

/-- Of a core, only its threads differ; its control registers, queues, tables, tags of other threads, code and Flowstone area stand. -/
def Core.onlyThreads (x y : Core) : Prop := y = { x with prim := y.prim, scav := y.scav }

/-- Of the primary, only its results in flight, its receive queues and the flags of an enabled trap differ: every register, tag, predicate,
latch and control register stands. -/
def Prim.onlyResults (p q : Prim) : Prop := q = { p with flight := q.flight, portq := q.portq, fpstat := q.fpstat }

/-- Of a scavenger, only its receive queues, its flags, its readiness and its wait differ. -/
def Scav.onlyResults (x y : Scav) : Prop := y = { x with portq := y.portq, fpstat := y.fpstat, st := y.st, wait := y.wait }

/-- The frame of an operation that works on registers: every byte of memory and every full-empty bit stands, nothing outside the issuing
core changes, and in that core the registers stand: results are in flight, or are a scavenger's destination accesses. -/
def State.registerFrame (s t : State) : Prop :=
  s.onlyCore t s.iss.core ∧ (s.core s.iss.core).onlyThreads (t.core s.iss.core) ∧
    (s.prim s.iss.core).onlyResults (t.prim s.iss.core) ∧
    ∀ k, (s.scav s.iss.core k).onlyResults (t.scav s.iss.core k)

/-- Two states of a primary with the same registers, program counter, tags, formats, flags and status bits. -/
def Prim.sameRegisters (p q : Prim) : Prop :=
  q.regs = p.regs ∧ q.pc = p.pc ∧ q.mode = p.mode ∧ q.br = p.br ∧ q.tags = p.tags ∧ q.mfmt = p.mfmt ∧ q.fpstat = p.fpstat ∧
    q.fpxen = p.fpxen ∧ q.mxerr = p.mxerr ∧ q.wawseen = p.wawseen ∧ q.commits = p.commits ∧ q.given = p.given ∧ q.fault = p.fault

/-- Two states of a scavenger with the same workspace, program counter, tags, flags and residue registers. -/
def Scav.sameRegisters (x y : Scav) : Prop :=
  y.wp = x.wp ∧ y.pc = x.pc ∧ y.tags = x.tags ∧ y.fpstat = x.fpstat ∧ y.fpxen = x.fpxen ∧ y.res = x.res ∧ y.fault = x.fault

/-- The frame of an operation that stores: no other core changes, and in the issuing core the registers, the control registers, the
code, the matrix queue and the task table stand, as do tiles, dies and the Terminus die. -/
def State.coreFrame (s t : State) : Prop :=
  (∀ d, d ≠ s.iss.core → t.core d = s.core d) ∧ t.tiles = s.tiles ∧ t.dies = s.dies ∧ t.term = s.term ∧
    (t.core s.iss.core).ctl = (s.core s.iss.core).ctl ∧ (t.core s.iss.core).code = (s.core s.iss.core).code ∧
    (t.core s.iss.core).qmx = (s.core s.iss.core).qmx ∧ (t.core s.iss.core).ttab = (s.core s.iss.core).ttab ∧
    (s.prim s.iss.core).sameRegisters (t.prim s.iss.core) ∧ ∀ k, (s.scav s.iss.core k).sameRegisters (t.scav s.iss.core k)

/-- The operations that work on registers alone, on whichever thread executes them: branches and endings, integer, floating-point and
vector arithmetic, compares and masks, reads of control registers and residues' time, format and tile halves, pops, tag and counter
waits. -/
def registerOnly : Instr → Bool
  | .br _ | .brp _ | .loop _ | .bri _ | .call _ | .calli _ | .ret _ | .brc _ | .tend _ | .trap _ | .sys _ | .nopb _ | .eret _
  | .add _ | .sub _ | .and _ | .or _ | .xor _ | .andn _ | .min _ | .max _ | .minn _ | .maxn _ | .shl _ | .shr _ | .sar _ | .rotl _
  | .clz _ | .ctz _ | .popc _ | .ext _ | .ins _ | .mul _ | .mulh _ | .mulhn _ | .div _ | .divn _ | .rem _ | .remn _ | .addi _
  | .movi _ | .movhi _ | .cmp _ | .cmpi _ | .plog _ | .pmov _ | .sel _
  | .fadd _ | .fsub _ | .fmul _ | .fma _ | .fmin _ | .fmax _ | .fdiv _ | .fsqrt _ | .fcmp _ | .fcvt _ | .fclass _
  | .mfc _ | .msetf _ | .rdts _
  | .vadd _ | .vsub _ | .vmin _ | .vmax _ | .vabs _ | .vneg _ | .vmul _ | .vfma _ | .vfms _ | .vand _ | .vor _ | .vxor _ | .vshl _
  | .vshr _ | .vsar _ | .vcmp _ | .vsel _ | .klog _ | .vpopk _ | .vcvt _ | .vpack _ | .vunpk _ | .vred _ | .vscan _ | .vperm _
  | .vslide _ | .vcompr _ | .vext _ | .vins _ | .vmov _ | .vbcast _ | .vexp2 _ | .vlog2 _ | .vrcp _ | .vrsq _ | .vtanh _ | .vord _
  | .vhist _ | .mrd _ | .mwr _ | .mwait _ | .pop _ | .popt _ | .twaita _ | .twaity _ | .tfind _ | .cntw _ | .drain _ | .pfence _
  | .yield _ => true
  | _ => false

end Sys2Proof.Machine
end

