-- ==== Sys2Proof/Certificates/Slice0/Obligations.lean ====
section
/-! DEFINITION. The statements for the provers. Each docstring names the rules of the spec that its statement comes from. -/

open Sys2Proof Sys2Proof.Machine

/-! ## Encodings -/

/-- Words of the spec's own examples, one of each class of operations, decode to the operation they stand for (R67 to R72, R78 to R82,
R92). -/
def Obligations.WordsDecode : Prop :=
  decodeFirst [0x0000020E, 0x980482E9, 0x0100E71F] = some (.vfma ⟨false, .mod 1 0 false, 0, false, false, 9, 7, 39, 3, true, true, false, 2, 0x010, 0x0⟩) ∧
  decodeFirst [0x02045040] = some (.add ⟨true, .none, 0, false, false, 5, 1, 2, 0, false, false, false, 3, 0x000, 0x0⟩) ∧
  decodeFirst [0x001084CC] = some (.ldf ⟨true, .none, 0, false, false, 8, 4, 0, 0, false, false, false, 3, 0x000, 0x0⟩) ∧
  decodeFirst [0x0000061C] = some (.nopb ⟨true, .none, 0, false, false, 0, 0, 0, 0, false, false, false, 0, 0x000, 0x0⟩) ∧
  decodeFirst [0x00000165, 0x01218513] = some (.mma ⟨false, .none, 0, false, false, 0, 4, 5, 6, false, false, false, 0, 0x012, 0x0⟩) ∧
  decodeFirst [0xC00305BD, 0x00018513] = some (.kvapp ⟨false, .none, 0, false, false, 6, 4, 5, 6, false, false, false, 3, 0x000, 0x0⟩) ∧
  decodeFirst [0x00008174] = some (.mcommit ⟨true, .none, 0, false, false, 8, 0, 0, 0, false, false, false, 0, 0x000, 0x0⟩) ∧
  decodeFirst [0x00CF1216, 0xC0048061, 0xABCDEF03] = some (.movi ⟨false, .immx 0x6789, 0, false, false, 9, 0, 0, 0, false, false, false, 3, 0x000, 0xABCDEF⟩)

/-- Decoding an encoded operation gives it back, and takes all of its words: for every well-formed operation, with every operand at every
value that its encoding admits (R67 to R72, R78 to R84). -/
def Obligations.DecodeOfEncode : Prop :=
  ∀ i : Instr, i.op?.isSome = true → WellFormed i → decodeFirst (encode i) = some i ∧ firstLen (encode i) = (encode i).length

/-- Encoding a decoded operation gives its words back: words mean one operation, no bit of them is dropped, and what is decoded is
well-formed (R67 to R72, R78 to R84). -/
def Obligations.EncodeOfDecode : Prop :=
  ∀ (ws : List IWord) (i : Instr), decodeFirst (bundleWords ws) = some i →
    WellFormed i ∧ i.op?.isSome = true ∧
    encodeAt (startsBundle (ws.headD 0)) i = (bundleWords ws).take (firstLen (bundleWords ws))

/-! ## The step -/

/-- A step runs the decoded operation. A primary's bundle of one operation that is due first: the step is that operation's meaning, in
the state in which the bundle begins (its results in flight count first, R21), and then the bundle's end (R17, R68). A scavenger's window
whose sources are read and whose operation makes no memory access: the step is its meaning and the operation's end (R34, R36). -/
def Obligations.StepRunsOperation : Prop :=
  (∀ (s : State) (it : Sys2Proof.Machine.Item) (rest : List Sys2Proof.Machine.Item) (o : IssOp) (n : Word),
    s.agenda = it :: rest → it.what = .bundleFetch →
    let c := it.arg.core
    let b := s.begin it rest
    let p := b.prim c
    let v := (b.stopTicks c).modPrim c fun p => { p with mode := .running, owesDrain := false }
    p.mode = .running → (b.tile (b.tileOf c)).supply = .on → v.captureDue c = none → p.replay = 0 → p.regErr = [] →
    (b.core c).fetchBundle .prim p.pc p.entryFrom p.omitAt = ⟨[o], n, none⟩ → o.slot < 10 →
    let v' := v.landCtlNow c
    let u := { v' with iss := { Issue.idle with live := true, core := c, thr := .prim, baddr := p.pc, next := n, ops := [o],
                                                pres := 1#10 <<< o.slot, turn := v'.clock c, stamp := v'.tscOf c } }
    let w := u.beginBundle
    step s =
      match exec o.instr { w with iss := { w.iss with slot := o.slot, waddr := o.waddr } } with
      | .next t => .next (State.endIssue u t)
      | .fault r => .fault r
      | .refused r => .refused r) ∧
  (∀ (s : State) (it : Sys2Proof.Machine.Item) (rest : List Sys2Proof.Machine.Item) (k : Fin 8) (w : Win) (i : Instr) (op : Op) (slot : Nat) (a : Word),
    s.agenda = it :: rest → it.what = .scavengerAccessRetry → it.arg.thr = .scav k →
    let c := it.arg.core
    let b := s.begin it rest
    let o : IssOp := ⟨slot, a, i⟩
    let u := b.performWin c k w o false
    (b.scav c k).win = some w → w.done = false → w.op = some o → w.todo = [] → i.op? = some op → (popsQueue i op = true → w.last < b.clock c) →
    (b.performWin c k w o true).memAccess k i op w.extra = none →
    step s =
      match exec i { u with iss := { u.iss with slot := slot, waddr := a } } with
      | .next t => .next (State.endIssue u t)
      | .fault r => .fault r
      | .refused r => .refused r)

/-- Each operation of a fetched bundle is what the decoder reads at its address among the words from the program counter to the next
bundle; in a bundle without an encoding fault it stands in a slot of its class, and no two stand in one slot (R68, R85). -/
def Obligations.FetchGivesDecoded : Prop :=
  ∀ (x : Core) (t : Thr) (pc : Word) (e : Option Word) (o : IssOp), o ∈ (x.fetchBundle t pc e none).ops →
    (∃ it ∈ scanItems 0 (bundleWords (x.code.drop (pc.toNat / 4))), it.res = .ok o.instr ∧
      o.waddr = BitVec.ofNat 64 (4 * (pc.toNat / 4 + it.off))) ∧
    ((x.fetchBundle t pc e none).fault = none →
      let sl := slotsOf ((o.instr.cls?).getD .s) t
      sl.1 ≤ o.slot ∧ o.slot < sl.1 + sl.2 ∧ ((x.fetchBundle t pc e none).ops.filter fun q => q.slot == o.slot) = [o])

/-- Nothing stops the machine: every instruction and every step answers a next state; each fault of the spec is a trap that a thread
takes, an ERROR completion or a record. With no step due, one cycle of the mesh clock passes and nothing else changes; the step at the head of
the agenda is performed in a cycle that is neither before the present one nor before its own, and leaves no bundle in progress. The agenda and
its order are the model's own (log 3). -/
def Obligations.EveryStepGoesOn : Prop :=
  ((∀ (i : Instr) (s : State), ∃ t, exec i s = .next t) ∧ ∀ s : State, ∃ t, step s = .next t) ∧
  ((∀ s : State, s.agenda = [] → step s = .next { s with cycle := s.cycle + 1 }) ∧
  (∀ (s : State) (it : Sys2Proof.Machine.Item) (rest : List Sys2Proof.Machine.Item), s.agenda = it :: rest →
    s.cycle ≤ (s.begin it rest).cycle ∧ it.due ≤ (s.begin it rest).cycle) ∧
  ∀ s t : State, step s = .next t → s.iss.live = false → t.iss.live = false)

/-! ## Predicates, pops, frames -/

/-- An operation whose predicate is false has no effect (R18). An operation outside the port operations whose fields pop an open
direction raises `NOPORT`, and one that pops a queue without enough values waits at a blocking point; it does nothing else (R168, R441,
R444). -/
def Obligations.PredicatesAndPops : Prop :=
  (∀ (i : Instr) (op : Op) (s : State), i.op? = some op → s.holds op = false → exec i s = .next s) ∧
  (∀ (i : Instr) (op : Op) (s : State), i.op? = some op →
    (match i with | .push _ | .pop _ | .pusht _ | .popt _ => False | _ => True) →
    s.holds op = true → s.popsServed op = false →
    ∃ d ∈ popDirs op,
      ((s.neighbour s.iss.core d).isNone = true ∧ exec i s = .next (s.raise codeNOPORT 0 (BitVec.ofNat 64 d) 0)) ∨
      (s.queued s.iss.core s.iss.thr d < (popDirs op).count d ∧
        exec i s = .next (s.block false (s.core s.iss.core).ctl.qlimit.toNat codePORTSTALL d)))

/-- The frame of the operations that work on registers: no byte of memory, no full-empty bit, no other core, and no register, tag,
latch or control register of the issuing core changes at the bundle; only results in flight, receive queues that were popped, the
flags of an enabled trap and a scavenger's readiness do (R18, R19, R443). -/
def Obligations.RegisterFrame : Prop :=
  ∀ (i : Instr) (s t : State), registerOnly i = true → exec i s = .next t →
    s.registerFrame t ∧ (∀ k, Memory.get t.mem k = Memory.get s.mem k) ∧ t.empty = s.empty

/-! ## Memory -/

/-- Reading a byte after a write: at the written key the byte written, at every other what was there; two memories in canonical form that
read alike are equal. What a store writes, a load of the same bytes reads, little-endian, and every byte outside them reads as before (R5,
R135, R142): for an access of up to eight bytes at a multiple of its size. -/
def Obligations.MemoryLaws : Prop :=
  ((∀ (m : List Host.Cell) (a : Nat) (b : Byte), Memory.wf m = true →
    Memory.wf (Memory.set m a b) = true ∧ Memory.get (Memory.set m a b) a = b ∧
    ∀ k, k ≠ a → Memory.get (Memory.set m a b) k = Memory.get m k) ∧
  ∀ m n : List Host.Cell, Memory.wf m = true → Memory.wf n = true → (∀ a, Memory.get m a = Memory.get n a) → m = n) ∧
  (∀ (s : State) (fe : Bool) (p n v : Nat), s.memWf = true → n ∈ [1, 2, 4, 8] → p % n = 0 → v < 2 ^ (8 * n) →
    let t := s.store fe p n v
    t.load p n = v ∧
    ∀ k, (∀ i, i < n → k ≠ progKey (s.sbt s.iss.core) s.iss.core (p + i)) → Memory.get t.mem k = Memory.get s.mem k)

/-- Every step keeps the memory's canonical form: bytes that are not zero, and empty doublewords, each in rising order. -/
def Obligations.StepKeepsMemoryForm : Prop :=
  ∀ s t : State, s.memWf = true → step s = .next t → t.memWf = true

/-- Every step keeps the bounds of the queues, and no primary halts without the record of its fault: in every state that a step reaches
from one in which they hold, each core has at most 16 entries in `Q.CP` and `Q.GA`, 8 in `Q.CO`, `Q.KV` and `Q.MX`, 16 in its injection buffer,
64 parked accesses and 32 messages in its ring, and each tile 64 in its deque (R200, R217, R218, R238, R251, R296, R302), and a halted primary
has its record (R370). Reset has them. -/
def Obligations.StepKeepsQueuesAndRecords : Prop :=
  State.reset.bounded ∧ ∀ s t : State, s.bounded → step s = .next t → t.bounded

/-- What reset leaves. Every primary is idle with its registers at the values that begin a task (R40), its tags not ready, its flags and
status clear and eight credits in each direction (R42, R45, R443); its limits, its frame base and its requested point stand at their reset values
(R42, R45, R503), its residues at zero (R39); every scavenger waits with four credits (R293, R443); the task table assigns no channel (R294). The
safe budget is in force (R508), the boot is due (R519), and the reserve tile's four positions, of each die, hold no core in service (R510). Memory has
its canonical form and lists nothing. That an unlisted byte reads 0 is the model's choice (log 1), as are the idle mode and the reserve tile's place
(log 2). -/
def Obligations.ResetState : Prop :=
  let s := State.reset
  (∀ c : CoreId,
    let p := s.prim c
    let k := (s.core c).ctl
    p.mode = .idle ∧ p.flight = [] ∧ p.fpstat = 0 ∧ p.fpxen = 0 ∧ p.mfmt = 0 ∧ p.wawseen = false ∧ (∀ i, (vget p.tags i).ready = false) ∧
    (∀ i, p.regs.rdS i = 0 ∧ p.regs.rdV i = 0) ∧ (∀ i, i ≠ 0 → p.regs.rdP i = false) ∧
    (∀ i, i ≠ 0 → p.regs.rdK i = 0) ∧ (∀ d, d < 4 → vget p.credits d = 8) ∧
    k.qlimit = 4096 ∧ k.felimit = 65536 ∧ k.capbase = 0x1EC ∧ k.mirror = false ∧ k.oppReq = 7 ∧
    (∀ i, (vget (s.core c).ttab i).v = false) ∧
    ∀ j : Fin 8, (s.scav c j).st = .waiting ∧ (∀ d, d < 4 → vget (s.scav c j).credits d = 4) ∧ (∀ i, i < 5 → vget (s.scav c j).res i = 0) ∧
      (s.scav c j).fpstat = 0 ∧ (s.scav c j).fpxen = 0) ∧
  (∀ i, (s.tile i).cur = 7 ∧ (s.tile i).deque = []) ∧
  s.term.service.budget = 1000 * s.term.service.safeb ∧ (∃ it ∈ s.agenda, it.what = .powerOnBoot ∧ it.due = 0) ∧
  (∀ d : Fin 4, ((List.finRange 196).filter fun i => (vget s.dies[d.val].lpt i.val).rsv).length = 4 ∧
    ∀ i, i < 196 → ((vget s.dies[d.val].lpt i).rsv = true ↔ (vget s.dies[d.val].lpt i).ins = false)) ∧
  s.memWf = true ∧ (∀ k, Memory.get s.mem k = 0) ∧ ∀ k, s.isFull k = true

/-! ## Results in flight -/

/-- Exposed latency: a scalar result of latency L, alone in flight, is in its register after L ticks and not before, and in its slot's
latch after L − 1 ticks (1 for L = 1) and not before; `s0` stays 0 (R19, R24, R27); that a result whose destination discards it enters its
latch all the same is the model's choice (log 98). In one tick of many results a scalar register takes the
last result that lands on it in slot order, `WAWSEEN` is set when two land on one register, and flags are ored into `FPSTAT` with their
results (R21, R27, R130). -/
def Obligations.ResultsLand : Prop :=
  (∀ (s : State) (op : Op) (lat n : Nat) (x : Word), s.iss.thr = .prim → (s.prim s.iss.core).flight = [] → 1 ≤ lat → s.iss.slot < 10 →
    let c := s.iss.core
    let r := (s.prim c).regs
    let u := (State.ticks c n (s.putS op lat 0 x)).prim c
    u.regs.rdS op.dst = (if op.nw = false ∧ lat ≤ n ∧ op.dst ≠ 0 then x else r.rdS op.dst) ∧
    (∀ i, i ≠ op.dst → u.regs.rdS i = r.rdS i) ∧
    u.regs.rdLatch s.iss.slot = (if max (lat - 1) 1 ≤ n then Word.toVec x else r.rdLatch s.iss.slot) ∧
    (max lat 1 ≤ n → u.flight = [])) ∧
  (∀ (s : State) (c : CoreId) (i : BitVec 6), (∀ f ∈ (s.prim c).flight, f.file ≠ .ctl) → i ≠ 0 →
    let fl := slotOrder (s.prim c).flight
    let u := (s.tick c).prim c
    u.regs.rdS i =
      (match (fl.filter fun f => f.toReg && f.file == .s && f.reg == i).getLast? with
        | some f => f.val.setWidth 64
        | none => (s.prim c).regs.rdS i) ∧
    u.wawseen = ((s.prim c).wawseen || anyClash ((fl.filter Flight.toReg).filter fun f => !f.isNull)) ∧
    u.fpstat = (s.prim c).fpstat ||| flagsOf (fl.filter Flight.flagsNow))

/-- `s0` reads 0, `p0` reads true and `k0` reads all ones; writes to them change nothing, and a write to another register, of every file, an
accumulator's half and a latch among them, is read back and leaves the others of its file alone, and the other files (R24, R40, R205). A
scavenger's register `h`i is the doubleword at offset 8i of its workspace: a write is read back,
and a register whose bytes are others keeps its value (R30). -/
def Obligations.HardWiredRegisters : Prop :=
  (∀ r : Regs, r.rdS 0 = 0 ∧ r.rdP 0 = true ∧ r.rdK 0 = BitVec.allOnes 512 ∧
    (∀ x, r.wrS 0 x = r) ∧ (∀ b, r.wrP 0 b = r) ∧ (∀ m, r.wrK 0 m = r) ∧
    (∀ i x, i ≠ 0 → (r.wrS i x).rdS i = x) ∧ (∀ i j x, i ≠ j → (r.wrS i x).rdS j = r.rdS j) ∧
    (∀ i x, (r.wrV i x).rdV i = x) ∧ (∀ i j x, i ≠ j → (r.wrV i x).rdV j = r.rdV j) ∧
    (∀ i b, 1 ≤ i → i < 16 → (r.wrP i b).rdP i = b) ∧ (∀ i j b, i < 16 → j < 16 → i ≠ j → (r.wrP i b).rdP j = r.rdP j) ∧
    (∀ i m, 1 ≤ i.toNat → i.toNat < 16 → (r.wrK i m).rdK i = m) ∧
    (∀ i j m, i.toNat < 16 → j.toNat < 16 → i ≠ j → (r.wrK i m).rdK j = r.rdK j) ∧
    (∀ i x, i < 32 → (r.wrA i x).rdA i = x) ∧ (∀ i j x, i < 32 → j < 32 → i ≠ j → (r.wrA i x).rdA j = r.rdA j) ∧
    (∀ i h x, i < 32 → ∀ b, b < 4096 →
      ((r.wrHalf i h x).rdA i).getLsbD (4096 * h.toNat + b) = x.getLsbD b ∧
      ((r.wrHalf i h x).rdA i).getLsbD (4096 * (!h).toNat + b) = (r.rdA i).getLsbD (4096 * (!h).toNat + b)) ∧
    (∀ i x, i < 10 → (r.wrLatch i x).rdLatch i = x) ∧ (∀ i j x, i < 10 → j < 10 → i ≠ j → (r.wrLatch i x).rdLatch j = r.rdLatch j) ∧
    (∀ i x, r.wrS i x = { r with s := (r.wrS i x).s }) ∧ (∀ i b, r.wrP i b = { r with p := (r.wrP i b).p }) ∧
    (∀ i x, r.wrV i x = { r with v := (r.wrV i x).v }) ∧ (∀ i m, r.wrK i m = { r with k := (r.wrK i m).k }) ∧
    (∀ i h x, r.wrHalf i h x = { r with a := (r.wrHalf i h x).a }) ∧ (∀ i x, r.wrLatch i x = { r with latch := (r.wrLatch i x).latch })) ∧
  (∀ (s : State) (c : CoreId) (k : Fin 8) (i j : BitVec 6) (x : Word), s.memWf = true → (s.scav c k).wp.toNat % 8 = 0 →
    (s.wrH c k i x).rdH c k i = x ∧
    ((∀ m n, m < 8 → n < 8 → progKey (s.sbt c) c (hAddr (s.scav c k).wp i + m) ≠ progKey (s.sbt c) c (hAddr (s.scav c k).wp j + n)) →
      (s.wrH c k i x).rdH c k j = s.rdH c k j))

/-! ## Traps and handlers -/

/-- A trap of a primary's bundle outside a supervisor core: the primary halts with a record that holds the code, the sub-cause, the
slot, the addresses and which operations are complete, and the notice of 64 bytes travels to the die's supervisor (R103, R370). A fault of a
scavenger's operation halts that thread alone, at the operation, and sends its notice; after `TRAP` or `SYS` it stands past it (R373). A fault
of a supervisor's own primary writes its notice to its own ring while the ring is open and no handler runs, and the primary then enters its
handler by a capture of cause `0x12`, also while `HOLD` is set (R369; log 29); else the notice goes to the management controller (R369).
An operation that waits past its bound halts its thread with the wait's trap, and until then it is held (R47, R522): a primary's
bundle has no effect and is tried in the next cycle, its bound counted from the first; a scavenger's operation that waits is tried in the next
cycle too, in its window, which may then last longer than a turn, and halts its thread when its own bound has run out. -/
def Obligations.TrapsAndHandlers : Prop :=
  ((∀ (b s : State) (r : Raised), s.iss.thr = .prim → s.iss.raised = some r → s.iss.again = false → s.iss.taken = none →
      (s.prim s.iss.core).mode = .running → isSupervisor s.iss.core = false →
      let c := s.iss.core
      let t := State.endIssue b s
      ∃ f : FaultRec, (t.prim c).mode = .halted ∧ (t.prim c).fault = some f ∧
        f.code = r.code ∧ f.sub = r.sub ∧ f.slot = BitVec.ofNat 4 r.slot ∧ f.baddr = s.iss.baddr ∧ f.waddr = r.waddr ∧
        f.info = r.info ∧ f.stamp = s.tscOf c ∧ f.pres = s.iss.pres ∧ f.done = s.iss.pres &&& ~~~(s.iss.faulted ||| s.iss.waited) ∧
        f.flight = slotOrder (s.prim c).flight ∧ (t.prim c).regs = (s.prim c).regs ∧
        (∃ it ∈ t.agenda, it.what = .ringRecordWrite ∧ it.arg.core = supervisorOf (dieOf c) ∧
          it.arg.load = .record (recordNotice c .prim f)) ∧
        t.mem = s.mem) ∧
    ((∀ (b s : State) (r : Raised), s.iss.thr = .prim → s.iss.raised = some r → s.iss.again = false → s.iss.taken = none →
      (s.prim s.iss.core).mode = .running → isSupervisor s.iss.core = true →
      let c := s.iss.core
      let t := State.endIssue b s
      let k := (s.core c).ctl
      ∃ f : FaultRec, (t.prim c).mode = .halted ∧ (t.prim c).fault = some f ∧ f.code = r.code ∧ f.sub = r.sub ∧ f.info = r.info ∧ t.mem = s.mem ∧
        (k.svrb.getLsbD 63 = true → k.svAct = false → ∃ it ∈ t.agenda, it.what = .ringRecordWrite ∧ it.arg.core = c ∧ it.arg.k = 1 ∧
          it.arg.load = .record (recordNotice c .prim f) ∧ it.due = s.cycle) ∧
        ((k.svrb.getLsbD 63 = false ∨ k.svAct = true) → ∃ it ∈ t.agenda, it.what = .supervisorRestart ∧ it.arg.core = c ∧
          it.arg.load = .record (recordNotice c .prim f) ∧ it.due = s.cycle + s.toTerminus c)) ∧
    ∀ s : State,
      let c := s.evt.core
      s.evt.k = 1 → s.putOff c true .ringRecordWrite = none → (s.prim c).mode = .halted → (s.core c).ctl.svAct = false → (s.core c).frozen = false →
      ∃ t, exec .ringRecordWrite s = .next t ∧ (t.prim c).mode = .capturing ∧ (t.prim c).fault.map FaultRec.code = (s.prim c).fault.map FaultRec.code ∧
        ∃ it ∈ t.agenda, it.what = .captureStart ∧ it.arg.core = c ∧ it.arg.k = 0x12) ∧
    (∀ (b s : State) (k : Fin 8) (r : Raised), s.iss.thr = .scav k → s.iss.raised = some r → s.iss.waited = 0 →
      let c := s.iss.core
      let t := State.endIssue b s
      (t.scav c k).st = .halted ∧ (t.scav c k).win = none ∧
      (t.scav c k).pc = (if s.iss.faulted = 0 then s.iss.next else (s.scav c k).pc) ∧
      (∃ f, (t.scav c k).fault = some f ∧ f.code = r.code ∧ f.sub = r.sub ∧ f.waddr = r.waddr ∧ f.info = r.info ∧
        ∃ it ∈ t.agenda, it.what = .ringRecordWrite ∧ it.arg.core = supervisorOf (dieOf c) ∧
          it.arg.load = .record (recordNotice c (.scav k) f)) ∧
      (∀ j, j ≠ k → t.scav c j = s.scav c j) ∧ t.prim c = s.prim c ∧ t.mem = s.mem)) ∧
  ((∀ (s : State) (bound : Nat) (code : BitVec 8) (info : Nat), s.iss.thr = .prim → code ≠ 0 →
      let now := s.clock s.iss.core
      let since := match (s.prim s.iss.core).hold with | some h => h.since | none => now
      let t := s.block false bound code info
      (since + bound ≤ now → t.iss.expired = true ∧ ∃ r, t.iss.raised = some r ∧ (s.iss.raised = none → r.code = code)) ∧
      (now < since + bound → t.iss.again = true ∧ t.iss.raised = s.iss.raised ∧ t.iss.waited = s.iss.waited ||| (1#10 <<< s.iss.slot) ∧
        t.prim s.iss.core = s.prim s.iss.core ∧ t.mem = s.mem)) ∧
    (∀ b s : State, s.iss.thr = .prim →
      let c := s.iss.core
      let p := b.prim c
      let now := b.clock c
      let since := match p.hold with | some h => h.since | none => now
      let t := State.endIssue b s
      (s.iss.again = true → s.iss.expired = false → s.iss.marks = 0 →
        t.prim c = { p with mode := .running, hold := some ⟨since, s.iss.bound, s.iss.bcode, 0⟩ } ∧ t.mem = b.mem ∧ t.empty = b.empty ∧
        (∀ d, d ≠ c → t.core d = b.core d) ∧ (∀ k, t.scav c k = b.scav c k) ∧
        ∃ it ∈ t.agenda, it.arg.core = c ∧ it.arg.thr = .prim ∧ it.due = b.meshAt c (now + 1) ∧
          (it.what = .blockingPointRelease ∨ it.what = .qstall ∨ it.what = .fewait ∨ it.what = .portstall)) ∧
      ∀ r, s.iss.expired = true → s.iss.raised = some r → s.iss.taken = none → (s.prim c).mode = .running → isSupervisor c = false →
        (t.prim c).mode = .halted ∧ ∃ f : FaultRec, (t.prim c).fault = some f ∧ f.code = r.code ∧ f.slot = BitVec.ofNat 4 r.slot ∧ f.info = r.info) ∧
    ∀ (b s : State) (k : Fin 8) (bound : Nat) (code : BitVec 8) (info : Nat), s.iss.thr = .scav k → code ≠ 0 → s.iss.raised = none →
      let c := s.iss.core
      let now := s.clock c
      let h : Hold := (s.scav c k).wait.getD ⟨now, bound, code, info⟩
      let t := State.endIssue b (s.block false bound code info)
      (h.since + h.bound ≤ now → (t.scav c k).st = .halted ∧ ∃ f : FaultRec, (t.scav c k).fault = some f ∧ f.code = code ∧ f.info = BitVec.ofNat 64 info) ∧
      (now < h.since + h.bound →
        let win := (s.scav c k).win.map fun w => { w with late := true }
        t.scav c k = { s.scav c k with st := .notReady false, wait := some h, win := win } ∧
        t.mem = s.mem ∧ t.prim c = s.prim c ∧ (∀ j, j ≠ k → t.scav c j = s.scav c j) ∧
        ∃ it ∈ t.agenda, it.arg.core = c ∧ it.arg.thr = .scav k ∧ it.due = s.meshAt c (now + 1) ∧
          (it.what = .scavengerAccessRetry ∨ (h.since + h.bound ≤ now + 1 ∧ (it.what = .qstall ∨ it.what = .fewait ∨ it.what = .portstall)))))

/-- A branch that a bundle has taken, with its drain flag in bit 0 of `esz` (R88): one delay bundle in sequence, then the target; a
branch taken in the delay bundle is entered in turn (R28). The relative branches go to the address of the branch's first word plus four
times the displacement, where no earlier branch of the bundle is taken: `BR` and `CALL` always, `CALL` with its link, `BRP` when its mask
has a bit set, `LOOP` while its counter less one is not zero, `BRC` when its condition holds; the indirect ones to their register (R87,
R105 to R107). After an earlier taken branch of the bundle a branch has no effect, but that a `LOOP` that would not be taken writes its counter
(R28). That a misaligned target raises nothing there is the model's reading (log 55), as is a mask field that names a latch (log 70). -/
def Obligations.Branches : Prop :=
  ((∀ (s : State) (op : Op) (t : Word), (s.take op t).iss.taken = some (t, op.esz.getLsbD 0) ∧ (s.take op t).iss.branchAt = s.iss.waddr) ∧
  ∀ (seq seq2 seq3 t u src src2 : Word) (d d2 : Bool),
    let b1 := Pending.clear.take t d src
    (b1.next seq).1 = seq ∧ ((b1.next seq).2.2.2.next seq2).1 = t ∧ ((b1.next seq).2.2.2.next seq2).2.1 = some src ∧
    ((b1.next seq).2.2.2.next seq2).2.2.1 = d ∧
    (((b1.next seq).2.2.2.next seq2).2.2.2.next seq3).1 = seq3 ∧
    let b2 := (b1.next seq).2.2.2.take u d2 src2
    (b2.next seq2).1 = t ∧ ((b2.next seq2).2.2.2.next seq3).1 = u ∧ ((b2.next seq2).2.2.2.next seq3).2.1 = some src2) ∧
  (∀ (op : Op) (s : State), s.runs op = true → s.iss.taken = none →
    let go := fun (t : State) (disp : Word) => t.take op (s.iss.waddr + 4 * disp)
    let x := s.srcAB op
    let y := s.srcS op.a op.la
    exec (.br op) s = .next (go s (Op.imm24 op)) ∧
    exec (.call op) s = .next (go (s.putS op 1 0 s.link) (Op.imm24 op)) ∧
    exec (.brp op) s = .next (if (if op.la then ((s.prim s.iss.core).regs.rdLatch op.a.toNat).setWidth 64 = 0#64
        else (s.prim s.iss.core).regs.rdK op.a = 0) then s else go s (Op.imm24 op)) ∧
    exec (.loop op) s =
      .next (if y.1 = 1 then y.2.putS op 1 0 0 else go (y.2.putS op 1 0 (y.1 - 1)) (Op.imm24 op)) ∧
    exec (.brc op) s = .next (if condHolds op.dst.toNat x.1 x.2.1 then go x.2.2 (op.x12.signExtend 64) else x.2.2)) ∧
  (∀ (op : Op) (s : State), s.runs op = true → s.iss.taken ≠ none →
    let y := s.srcS op.a op.la
    exec (.brp op) s = .next s ∧ exec (.brc op) s = .next (s.srcAB op).2.2 ∧
    exec (.loop op) s = .next (if y.1 = 1 then y.2.putS op 1 0 0 else y.2)) ∧
  (∀ (op : Op) (s : State), s.runs op = true →
    let x := s.srcS op.a op.la
    let go := fun (t : State) => t.take op x.1
    (s.iss.taken = none → x.1.toNat % 4 = 0 →
      exec (.bri op) s = .next (go x.2) ∧ exec (.ret op) s = .next (go x.2) ∧ exec (.calli op) s = .next (go (x.2.putS op 1 0 s.link))) ∧
    (s.iss.taken = none → x.1.toNat % 4 ≠ 0 →
      ∀ i ∈ [Instr.bri op, .ret op, .calli op], exec i s = .next ((State.oweBack s x.2).raise codeALIGN 0 x.1 0)) ∧
    (s.iss.taken ≠ none →
      (∀ i ∈ [Instr.bri op, .ret op, .calli op], exec i s = .next x.2) ∧ ∀ i ∈ [Instr.br op, .call op], exec i s = .next s))

/-! ## Control -/

/-- The ending and trapping operations (R110, R111, R113): `TEND` marks the end of the body run after the bundle; `TRAP` and `SYS` raise
their codes with `x12` in `INFO` and are complete; `ERET` leaves a handler of the supervisor's own primary, and is `PROT` with sub-cause 6
outside one. -/
def Obligations.EndingOperations : Prop :=
  ∀ (op : Op) (s : State), s.runs op = true →
    exec (.tend op) s = .next { s with iss := { s.iss with ended := true } } ∧
    (s.iss.raised = none → ∀ q ∈ [(Instr.trap op, codeTRAPI), (.sys op, codeSYSC)],
      exec q.1 s = .next { s with iss := { s.iss with raised := some ⟨s.iss.slot, s.iss.waddr, q.2, 0, op.x12.setWidth 64, 0⟩ } }) ∧
    (s.privileged = true → (s.core s.iss.core).ctl.svAct = true →
      exec (.eret op) s = .next { s with iss := { s.iss with eret := true } }) ∧
    ((s.privileged = false ∨ (s.core s.iss.core).ctl.svAct = false) → exec (.eret op) s = .next (s.raise codePROT 6 0 0))

/-- `NOPB` has no effect, and its compact word with S = 1 is `0x0000_061C` (R112). -/
def Obligations.NopHasNoEffect : Prop :=
  (∀ (op : Op) (s : State), s.runs op = true → exec (.nopb op) s = .next s) ∧
  ∃ op, decodeFirst [0x0000061C#32] = some (.nopb op) ∧ startsBundle 0x0000061C#32 = true ∧ op.compact = true ∧
    encode (.nopb op) = [0x0000061C#32] ∧ opFaults (.nopb op) .prim = (false, false)

/-- The conditions of `BRC`, `CMP` and `CMPI` (R108): the comparison of two 64-bit patterns that each code names; each of the three
operations takes its condition from the table, `BRC` where no earlier branch of the bundle is taken; codes 10 to 15 are `ILLOP`. -/
def Obligations.ConditionTable : Prop :=
  (∀ x y : Word,
    (condHolds 0 x y = true ↔ x = y) ∧ (condHolds 1 x y = true ↔ x ≠ y) ∧
    (condHolds 2 x y = true ↔ x.toInt < y.toInt) ∧ (condHolds 3 x y = true ↔ y.toInt ≤ x.toInt) ∧
    (condHolds 4 x y = true ↔ x.toInt ≤ y.toInt) ∧ (condHolds 5 x y = true ↔ y.toInt < x.toInt) ∧
    (condHolds 6 x y = true ↔ x.toNat < y.toNat) ∧ (condHolds 7 x y = true ↔ y.toNat ≤ x.toNat) ∧
    (condHolds 8 x y = true ↔ x.toNat ≤ y.toNat) ∧ (condHolds 9 x y = true ↔ y.toNat < x.toNat)) ∧
  (∀ (op : Op) (s : State), s.runs op = true →
    let x := s.srcAB op
    let y := s.srcS op.a op.la
    exec (.cmp op) s = .next (x.2.2.putP op.dst 0 (condHolds op.modifier x.1 x.2.1)) ∧
    exec (.cmpi op) s = .next (y.2.putP op.dst 0 (condHolds op.modifier y.1 ((op.x12.extractLsb' 4 8).signExtend 64))) ∧
    (s.iss.taken = none → exec (.brc op) s =
      .next (if condHolds op.dst.toNat x.1 x.2.1 then x.2.2.take op (s.iss.waddr + 4 * op.x12.signExtend 64) else x.2.2))) ∧
  ∀ (op : Op) (t : Thr),
    (10 ≤ op.dst.toNat → (opFaults (.brc op) t).1 = true) ∧
    (10 ≤ op.modifier → (opFaults (.cmp op) t).1 = true ∧ (opFaults (.cmpi op) t).1 = true)

/-! ## Scalar integers -/

/-- Integer results of latency 1 (R114): sums and differences modulo 2^64, the bitwise operations bit by bit, and the signed and
unsigned extremes, with no flag and no trap; a nonzero `x12` or `c` is an encoding fault. -/
def Obligations.IntegerResults : Prop :=
  (∀ (op : Op) (t : Thr), op.x12 ≠ 0 ∨ op.c ≠ 0 →
    ∀ i ∈ [Instr.add op, .sub op, .and op, .or op, .xor op, .andn op, .min op, .max op, .minn op, .maxn op], (opFaults i t).1 = true) ∧
  ∀ (op : Op) (s : State), s.runs op = true →
    let x := s.srcAB op
    let a := x.1
    let b := x.2.1
    let is := fun (i : Instr) (P : Word → Prop) => ∃ r, P r ∧ exec i s = .next (x.2.2.putS op 1 0 r)
    is (.add op) (fun r => r.toNat = (a.toNat + b.toNat) % 2 ^ 64) ∧
    is (.sub op) (fun r => (r.toNat + b.toNat) % 2 ^ 64 = a.toNat) ∧
    is (.and op) (fun r => ∀ i, r.getLsbD i = (a.getLsbD i && b.getLsbD i)) ∧
    is (.or op) (fun r => ∀ i, r.getLsbD i = (a.getLsbD i || b.getLsbD i)) ∧
    is (.xor op) (fun r => ∀ i, r.getLsbD i = (a.getLsbD i != b.getLsbD i)) ∧
    is (.andn op) (fun r => ∀ i, i < 64 → r.getLsbD i = (a.getLsbD i && !b.getLsbD i)) ∧
    is (.min op) (fun r => r.toInt = min a.toInt b.toInt) ∧
    is (.max op) (fun r => r.toInt = max a.toInt b.toInt) ∧
    is (.minn op) (fun r => r.toNat = min a.toNat b.toNat) ∧
    is (.maxn op) (fun r => r.toNat = max a.toNat b.toNat)

/-- Shifts, counts and fields (R115): the amount is `x12`[5:0] when `x12`[6] is 1, else the low six bits of the second operand. -/
def Obligations.ShiftResults : Prop :=
  ∀ (op : Op) (s : State), s.runs op = true →
    let x := s.srcAB op
    let y := s.srcS op.a op.la
    let imm := op.x12.getLsbD 6
    let a := if imm then y.1 else x.1
    let n := if imm then op.xbits 0 6 else x.2.1.toNat % 64
    let u := if imm then y.2 else x.2.2
    let sh := fun (i : Instr) (P : Word → Prop) => ∃ r, P r ∧ exec i s = .next (u.putS op 1 0 r)
    let one := fun (i : Instr) (P : Word → Prop) => ∃ r, P r ∧ exec i s = .next (y.2.putS op 1 0 r)
    sh (.shl op) (fun r => r.toNat = a.toNat * 2 ^ n % 2 ^ 64) ∧
    sh (.shr op) (fun r => r.toNat = a.toNat / 2 ^ n) ∧
    sh (.sar op) (fun r => r.toInt = a.toInt / 2 ^ n) ∧
    sh (.rotl op) (fun r => ∀ i, i < 64 → r.getLsbD ((i + n) % 64) = a.getLsbD i) ∧
    one (.clz op) (fun r => (y.1 = 0 → r = 64) ∧ r.toNat ≤ 64 ∧ y.1.toNat < 2 ^ (64 - r.toNat) ∧ (y.1 ≠ 0 → 2 ^ (63 - r.toNat) ≤ y.1.toNat ∧ r.toNat < 64)) ∧
    one (.ctz op) (fun r => (y.1 = 0 → r = 64) ∧ r.toNat ≤ 64 ∧ y.1.toNat % 2 ^ r.toNat = 0 ∧ (y.1 ≠ 0 → y.1.toNat / 2 ^ r.toNat % 2 = 1)) ∧
    one (.popc op) (fun r => r.toNat = ((List.range 64).filter fun i => y.1.getLsbD i).length) ∧
    one (.ext op) (fun r => r.toNat = y.1.toNat / 2 ^ op.xbits 0 6 % 2 ^ (op.xbits 6 6 + 1)) ∧
    ∃ r, (op.xbits 0 6 + op.xbits 6 6 + 1 ≤ 64 → ∀ i, i < 64 → r.getLsbD i =
        if op.xbits 0 6 ≤ i ∧ i < op.xbits 0 6 + op.xbits 6 6 + 1 then x.1.getLsbD (i - op.xbits 0 6) else x.2.1.getLsbD i) ∧
      exec (.ins op) s = .next (x.2.2.putS op 1 0 r)

/-- Products and quotients (R116): the low and high halves of the exact product; a quotient rounded towards zero and the remainder of
the dividend's sign, modulo 2^64, after 18 bundles; a zero divisor raises `DIVZ`. -/
def Obligations.MultiplyDivide : Prop :=
  ∀ (op : Op) (s : State), s.runs op = true →
    let x := s.srcAB op
    let a := x.1
    let b := x.2.1
    let is := fun (i : Instr) (P : Word → Prop) => ∃ r, P r ∧ exec i s = .next (x.2.2.putS op 3 0 r)
    let dv := fun (i : Instr) (P : Word → Prop) => ∃ r, P r ∧ exec i s = .next (x.2.2.putLong op 18 0 r)
    is (.mul op) (fun r => r.toNat = a.toNat * b.toNat % 2 ^ 64) ∧
    is (.mulhn op) (fun r => r.toNat = a.toNat * b.toNat / 2 ^ 64) ∧
    is (.mulh op) (fun r => r.toInt = a.toInt * b.toInt / 2 ^ 64) ∧
    (b ≠ 0 →
      dv (.divn op) (fun r => r.toNat = a.toNat / b.toNat) ∧ dv (.remn op) (fun r => r.toNat = a.toNat % b.toNat) ∧
      dv (.div op) (fun r => (r.toInt = Int.tdiv a.toInt b.toInt) ∨ (a.toInt = -2 ^ 63 ∧ b.toInt = -1 ∧ r = a)) ∧
      dv (.rem op) (fun r => r.toInt = Int.tmod a.toInt b.toInt)) ∧
    (b = 0 → ∀ i ∈ [Instr.div op, .divn op, .rem op, .remn op],
      exec i s = .next ((State.oweBack s x.2.2).raise codeDIVZ 0 0 0))

/-- `ADDI` (R117): s[a] plus the immediate modulo 2^64; the immediate is the sign-extended `imm11`, or under `IMMX` the 34 bits of R81;
every word that decodes to it is predicated on `p0`. -/
def Obligations.AddImmediate : Prop :=
  (∀ (op : Op) (s : State), s.runs op = true →
    let x := s.srcS op.a op.la
    ∃ r : Word, r.toInt % 2 ^ 64 = (x.1.toInt + (Op.imm11 op).toInt) % 2 ^ 64 ∧ exec (.addi op) s = .next (x.2.putS op 1 0 r)) ∧
  (∀ op : Op, (Op.imm11 op).toInt =
    match op.pfx with
    | .immx hi => (hi ++ op.imm.setWidth 11 : BitVec 34).toInt
    | _ => (op.imm.setWidth 11 : BitVec 11).toInt) ∧
  ∀ (ws : List IWord) (op : Op), decodeFirst ws = some (.addi op) → op.pred = 0 ∧ op.pneg = false

/-- Immediates, compares, predicates and selection (R118 to R122): each result with its destination. `CMP` and `CMPI` write a predicate
on the primary and 1 or 0 on a scavenger (R104). -/
def Obligations.MovesAndCompares : Prop :=
  ∀ (op : Op) (s : State), s.runs op = true →
    let x := s.srcAB op
    let y := s.srcS op.a op.la
    let z := s.srcABC op
    let r := (s.prim s.iss.core).regs
    let pa := s.srcP op.a op.la
    let pb := pa.2.srcP op.b op.lb
    let pc := x.2.2.srcP op.c op.lc
    exec (.movi op) s = .next (s.putS op 1 0 (Op.imm24 op)) ∧
    (∃ w : Word, w.toNat = op.imm.toNat * 2 ^ 40 + y.1.toNat % 2 ^ 40 ∧ exec (.movhi op) s = .next (y.2.putS op 1 0 w)) ∧
    exec (.cmp op) s = .next (x.2.2.putP op.dst 0 (condHolds op.modifier x.1 x.2.1)) ∧
    exec (.cmpi op) s = .next (y.2.putP op.dst 0 (condHolds op.modifier y.1 ((op.x12.extractLsb' 4 8).signExtend 64))) ∧
    exec (.plog op) s = .next (pb.2.putP op.dst 0 (logF op.modifier pa.1 pb.1)) ∧
    (op.xbits 0 2 = 0 → exec (.pmov op) s = .next (pa.2.putP op.dst 0 pa.1)) ∧
    (op.la = false → pa.1 = r.rdP op.a.toNat) ∧
    (op.xbits 0 2 = 1 → ∃ w : Word, (∀ i, i < 64 → w.getLsbD i = (decide (i < 16) && r.rdP i)) ∧
      exec (.pmov op) s = .next (s.putS op 1 0 w)) ∧
    (op.xbits 0 2 = 2 → ∃ f : Flight, f.file = .pAll ∧ f.rcd = 1 ∧ f.val.setWidth 16 = y.1.setWidth 16 ∧
      exec (.pmov op) s = .next (y.2.fly f)) ∧
    (s.iss.thr = .prim → exec (.sel op) s = .next (pc.2.putS op 1 0 (if pc.1 then x.1 else x.2.1))) ∧
    (s.iss.thr ≠ .prim → exec (.sel op) s = .next (z.2.2.2.putS op 1 0 (if z.2.2.1 = 0 then z.2.1 else z.1)))

/-! ## Floating point -/

/-- `RoundTo` (R54, R55), for every format, mode and saturation: where it does not overflow, the result is a value of the format; towards zero
and to either side it is less than one unit of its last place from the exact value, on the side that the mode names; to nearest it is at most half
a unit from it, and at half a unit its last place is even under `.rn` and it lies away from zero under `.ra`; `NX` says that it differs, and `UF`
that it is tiny as well; a value of the format is its own rounding. From the power of two above the largest value on, it overflows: to the largest
value when saturating, else to infinity, to the largest value or to the NaN of a format without infinity, as the mode says; an FP4 target always saturates. `.ftz` makes a tiny
result a zero of its sign with `UF` and `NX`. That a result which rounds to zero keeps its sign is the model's choice (log 97). The integer
square root that `FSQRT` and `VRSQ` use is the floor of the root. -/
def Obligations.Rounding : Prop :=
  (∀ t ∈ [Ty.f64, .f32, .f16, .bf16, .f8e5, .f8e4, .f4e2], ∀ (md : FMode) (neg : Bool) (m : Nat) (e : Int), 0 < m → md.rnd < 5 → md.ftz = false →
    (t = .f4e2 → md.sat = true) →
    let f := fmtOf t
    let q := max ((Nat.log2 m : Int) + e - (f.mbits : Int)) f.qmin
    let r := roundTo f md neg m e
    let top := (2 ^ f.ebits - 1 : Int) - (f.bias : Int) - (if f.hasInf then 1 else 0)
    let tiny := r.bits % 2 ^ (f.ebits + f.mbits) < 2 ^ f.mbits
    (e ≤ q → r.flg &&& (flagOF ||| flagSAT) = 0 →
      ∃ (n : Nat) (q' : Int), decodeF f r.bits = .fin neg n q' ∧ e ≤ q' ∧
        let v := n * 2 ^ (q' - e).toNat
        let unit := 2 ^ (q - e).toNat
        let down := v ≤ m ∧ m < v + unit
        let up := m ≤ v ∧ v < m + unit
        let near := 2 * v ≤ 2 * m + unit ∧ 2 * m ≤ 2 * v + unit
        (md.rnd = 0 → near ∧ ((2 * v = 2 * m + unit ∨ 2 * m = 2 * v + unit) → n % 2 = 0)) ∧
        (md.rnd = 1 → down) ∧ (md.rnd = 2 → if neg then down else up) ∧ (md.rnd = 3 → if neg then up else down) ∧
        (md.rnd = 4 → near ∧ (2 * m = 2 * v + unit → False)) ∧
        r.flg = (if v = m then 0 else if tiny then flagUF ||| flagNX else flagNX)) ∧
    (∀ x, x < 2 ^ t.width → decodeF f x = .fin neg m e → r.bits = x ∧ r.flg = 0) ∧
    (top < (Nat.log2 m : Int) + e →
      (md.sat = true → r = ⟨f.signBit neg + f.largest, flagNX ||| flagSAT, false⟩) ∧
      (md.sat = false → r.flg = flagNX ||| flagOF ∧
        r.bits = if f.hasInf = false then f.nan
          else f.signBit neg + (if md.rnd = 1 ∨ (md.rnd = 2 ∧ neg = true) ∨ (md.rnd = 3 ∧ neg = false) then f.largest else f.infBits))) ∧
    roundTo f { md with ftz := true } neg m e = if tiny then ⟨f.signBit neg, flagUF ||| flagNX, true⟩ else r) ∧
  (∀ (x n : Nat), x < 2 ^ (2 * n + 2) → isqrt x n 0 * isqrt x n 0 ≤ x ∧ x < (isqrt x n 0 + 1) * (isqrt x n 0 + 1))

/-- Scalar arithmetic in floating point where no enabled flag is set (R123 to R125, R130): operands in the operation's type, flushed
under `MOD`, the exact result rounded once, latency 4, or 14 for `FDIV` and `FSQRT`; a result or operand of the subnormal range costs a
scavenger its next two turns (R37). With an enabled flag set, `FPX` is raised with the flags and nothing else. -/
def Obligations.FloatArithmetic : Prop :=
  ∀ (op : Op) (s : State) (n : Nat) (g : FFmt → FMode → FVal → FVal → FVal → FRes) (lat : Nat) (i : Instr), s.runs op = true →
    (i, n, lat, g) ∈ ([(.fadd op, 2, 4, fun f m x y _ => sumF f m [x, y]), (.fsub op, 2, 4, fun f m x y _ => sumF f m [x, y.negate]),
      (.fmul op, 2, 4, fun f m x y _ => mulF f m x y), (.fma op, 3, 4, fun f m x y z => fmaF f m x y z),
      (.fdiv op, 2, 14, fun f m x y _ => divF f m x y), (.fsqrt op, 1, 14, fun f m x _ _ => sqrtF f m x)] :
        List (Instr × Nat × Nat × (FFmt → FMode → FVal → FVal → FVal → FRes))) →
    let t := (Op.scalarTy op).getD .f32
    let md := modeOf op t
    let src := s.srcN op n
    let raw := [src.1, src.2.1, src.2.2.1].map fun w => w.toNat % 2 ^ t.width
    let v := fun (k : Nat) => operandF (fmtOf t) md.ftz (if k < n then (raw[k]?).getD 0 else 0)
    let r := g (fmtOf t) md (v 0) (v 1) (v 2)
    let slow := !md.ftz && (r.tiny || (raw.take n).any fun x => isSubnormal (fmtOf t) x)
    let u := src.2.2.2
    (r.flg &&& s.fpxen = 0 →
      exec i s = .next ((if lat = 14 then u.putLong op 14 r.flg (BitVec.ofNat 64 r.bits)
        else u.putS op 4 r.flg (BitVec.ofNat 64 r.bits)).forfeit slow)) ∧
    (r.flg &&& s.fpxen ≠ 0 → exec i s = .next (((State.oweBack s u).orFpstat r.flg).raise codeFPX 0 ((r.flg &&& s.fpxen).setWidth 64) 0))

/-- Extremes, compares, conversions and classes (R126 to R129): `FMIN` and `FMAX` give one of the operands after any flush, −0 below +0,
a signalling NaN the canonical NaN and `NV`, one quiet NaN the other operand, two the canonical NaN without a flag; `FCMP` writes its
condition, false when unordered but for `.ne` and `.un`; `FCVT` converts between its two types, a signed integer result sign-extended: a value
by `RoundTo`, under a flush too, infinities, NaNs and integer targets by the table of R59, whose integer is the value rounded by the mode, or the
type's bound; `FCLASS` sets exactly one of bits 0 to 9. A subnormal operand or a tiny result costs a scavenger its next two turns, never under
`.ftz` (R37, R66). An enabled flag raises `FPX` with the flags and nothing else (R130). That a flush reads no subnormal source of an integer target
as zero is the model's reading (log 53). -/
def Obligations.FloatComparesAndConversions : Prop :=
  ((∀ (f : FFmt) (fl mx : Bool) (x y : Nat),
    let a := operandF f fl x
    let b := operandF f fl y
    let r := minmaxF f fl mx x y
    ((a.isSig || b.isSig) = true → r.bits = f.nan ∧ r.flg = flagNV) ∧
    ((a.isSig || b.isSig) = false → r.flg = 0 ∧
      (a.isNan = true → b.isNan = true → r.bits = f.nan) ∧
      (a.isNan = true → b.isNan = false → r.bits = flushed f fl y) ∧
      (a.isNan = false → b.isNan = true → r.bits = flushed f fl x) ∧
      (a.isNan = false → b.isNan = false → (r.bits = flushed f fl x ∨ r.bits = flushed f fl y) ∧
        (a.lt b = true → r.bits = flushed f fl (if mx then y else x)) ∧ (b.lt a = true → r.bits = flushed f fl (if mx then x else y)) ∧
        (a.isZero = true → b.isZero = true → a.isNeg = true → b.isNeg = false → r.bits = flushed f fl (if mx then y else x)) ∧
        (a.isZero = true → b.isZero = true → a.isNeg = false → b.isNeg = true → r.bits = flushed f fl (if mx then x else y))))) ∧
  ∀ (op : Op) (s : State) (mx : Bool), s.runs op = true →
    let t := (Op.scalarTy op).getD .f32
    let src := s.srcAB op
    let x := src.1.toNat % 2 ^ t.width
    let y := src.2.1.toNat % 2 ^ t.width
    let r := minmaxF (fmtOf t) (flushOf op) mx x y
    (r.flg &&& s.fpxen = 0 →
      exec (if mx then .fmax op else .fmin op) s = .next ((src.2.2.putS op 4 r.flg (BitVec.ofNat 64 r.bits)).forfeit
        (!flushOf op && (isSubnormal (fmtOf t) x || isSubnormal (fmtOf t) y)))) ∧
    (r.flg &&& s.fpxen ≠ 0 → exec (if mx then .fmax op else .fmin op) s =
      .next (((State.oweBack s src.2.2).orFpstat r.flg).raise codeFPX 0 ((r.flg &&& s.fpxen).setWidth 64) 0))) ∧
  (∀ (op : Op) (dt st : Ty) (x : Nat),
    let f := fmtOf dt
    let md := modeOf op dt
    let raw := decodeF (fmtOf st) x
    let r := convertBits op true dt st x
    (st.isFloat = true → dt.isFloat = true →
      (∀ n m e, raw = .fin n m e → m ≠ 0 → (flushOf op && isSubnormal (fmtOf st) x) = false → r = roundTo f md n m e) ∧
      (∀ n m e, raw = .fin n m e → (m = 0 ∨ (flushOf op && isSubnormal (fmtOf st) x) = true) → r.bits = f.signBit n ∧ r.flg = 0) ∧
      (∀ g, raw = .nan g → r.bits = f.nan ∧ r.flg = if dt = .f4e2 ∨ g = true then flagNV else 0) ∧
      ∀ n, raw = .inf n → (f.hasInf = true → r.bits = f.signBit n + f.infBits ∧ r.flg = 0) ∧
        (f.hasInf = false → md.sat = true → r.bits = f.signBit n + f.largest ∧ r.flg = flagSAT ||| flagNX) ∧
        (f.hasInf = false → md.sat = false → r.bits = f.nan ∧ r.flg = flagNV)) ∧
    (st.isFloat = true → dt.isFloat = false →
      ∃ v : Int, r.bits = wrapInt dt.width v ∧ dt.lo ≤ v ∧ v ≤ dt.hi ∧
        (raw.isNan = true → v = 0 ∧ r.flg = flagNV) ∧
        (∀ n, raw = .inf n → v = (if n then dt.lo else dt.hi) ∧ r.flg = flagNV) ∧
        ∀ n m e, raw = .fin n m e → ∃ k : Nat,
          let unit := 2 ^ (-e).toNat
          let a := if 0 ≤ e then m * 2 ^ e.toNat else m
          let d := if 0 ≤ e then k else k * unit
          let down := d ≤ a ∧ a < d + unit
          let up := a ≤ d ∧ d < a + unit
          let near := 2 * d ≤ 2 * a + unit ∧ 2 * a ≤ 2 * d + unit
          (0 ≤ e → k = a) ∧
          (e < 0 → (md.rnd = 0 → near ∧ ((2 * d = 2 * a + unit ∨ 2 * a = 2 * d + unit) → k % 2 = 0)) ∧ (md.rnd = 1 → down) ∧
            (md.rnd = 2 → if n then down else up) ∧ (md.rnd = 3 → if n then up else down) ∧ (md.rnd = 4 → near ∧ 2 * a ≠ 2 * d + unit)) ∧
          let z : Int := if n then -(k : Int) else k
          (dt.lo ≤ z ∧ z ≤ dt.hi → v = z ∧ r.flg = if d = a then 0 else flagNX) ∧
          (z < dt.lo ∨ dt.hi < z → v = (if n then dt.lo else dt.hi) ∧ r.flg = flagNV)) ∧
    (st.isFloat = false → dt.isFloat = true →
      (intOf st x = 0 → r.bits = 0 ∧ r.flg = 0) ∧ (intOf st x ≠ 0 → r = roundTo f md (decide (intOf st x < 0)) (intOf st x).natAbs 0))) ∧
  ((∀ (c : Nat) (a b : FVal), c < 8 →
    ((a.isNan || b.isNan) = true → (cmpF c a b).1 = decide (c = 1 ∨ c = 6)) ∧
    ((a.isNan || b.isNan) = false → (cmpF c a b).1 = (match c with
      | 0 => a.eqv b | 1 => !a.eqv b | 2 => a.lt b | 3 => !b.lt a | 4 => b.lt a | 5 => !a.lt b | 6 => false | _ => true)) ∧
    (cmpF c a b).2 = (if a.isSig || b.isSig || ((a.isNan || b.isNan) && decide (2 ≤ c ∧ c ≤ 5)) then flagNV else 0)) ∧
  ∀ (op : Op) (s : State), s.runs op = true →
    let t := (Op.scalarTy op).getD .f32
    let fl := flushOf op
    let src := s.srcAB op
    let y := s.srcS op.a op.la
    let x1 := src.1.toNat % 2 ^ t.width
    let x2 := src.2.1.toNat % 2 ^ t.width
    let c := cmpF op.modifier (operandF (fmtOf t) fl x1) (operandF (fmtOf t) fl x2)
    let st := (tyOfCode op.tyCode).getD .f32
    let dt := (tyOfCode op.modifier).getD .f32
    let xs := y.1.toNat % 2 ^ st.width
    let v := convertBits op true dt st xs
    (c.2 &&& s.fpxen = 0 → exec (.fcmp op) s =
      .next ((src.2.2.putP op.dst c.2 c.1).forfeit (!fl && (isSubnormal (fmtOf t) x1 || isSubnormal (fmtOf t) x2)))) ∧
    (c.2 &&& s.fpxen ≠ 0 → exec (.fcmp op) s =
      .next (((State.oweBack s src.2.2).orFpstat c.2).raise codeFPX 0 ((c.2 &&& s.fpxen).setWidth 64) 0)) ∧
    (v.flg &&& s.fpxen ≠ 0 → exec (.fcvt op) s =
      .next (((State.oweBack s y.2).orFpstat v.flg).raise codeFPX 0 ((v.flg &&& s.fpxen).setWidth 64) 0)) ∧
    (v.flg &&& s.fpxen = 0 → exec (.fcvt op) s =
      .next ((y.2.putS op 4 v.flg (if dt.isSigned then (BitVec.ofNat dt.width v.bits).signExtend 64 else BitVec.ofNat 64 v.bits)).forfeit
        (!fl && (v.tiny || (st.isFloat && isSubnormal (fmtOf st) xs))))) ∧
    ∃ (w : Word) (k : Nat), k < 10 ∧ w.toNat = 2 ^ k ∧ k = classF (fmtOf t) (y.1.toNat % 2 ^ t.width) ∧
      exec (.fclass op) s = .next (y.2.putS op 1 0 w))

/-! ## Control registers -/

/-- Control registers (R42, R131 to R134, R314): `MFC` gives the register's value, `TSC` that of the cycle of issue, as `RDTS` does;
`RDRES` reads a residue register and clears it, on a scavenger in
the cycle of its turn, so that its window holds the value, and two of one register in a primary's bundle read alike (log 112); an `MTC` of the primary is in flight for one bundle, a scavenger's lands at once; a
privileged access is `PROT` with sub-cause 6 outside a supervisor's primary, a value that the register's rule refuses raises that fault, a
busy block-table entry holds the bundle, and what a value that is refused had popped stays in its queue; `MSETF` takes effect after four bundles, a reserved format is `ILLOP`. -/
def Obligations.ControlRegisters : Prop :=
  (∀ (op : Op) (s : State), s.runs op = true →
    let n := op.x12.toNat
    exec (.rdts op) s = .next (s.putS op 1 0 s.issueTsc) ∧
    (n = 2 → exec (.mfc op) s = exec (.rdts op) s) ∧
    ((needsPriv n false = false ∨ s.privileged = true) → n ≠ 2 →
      exec (.mfc op) s = .next (s.putS op 1 0 (s.readCtl s.iss.core s.iss.thr n))) ∧
    (needsPriv n false = true → s.privileged = false → exec (.mfc op) s = .next (s.raise codePROT 6 0 0)) ∧
    (∀ j q l, s.iss.thr = .scav j → s.iss.got = q :: l → exec (.rdres op) s = .next (s.putS op 1 0 q.2)) ∧
    (∀ q, s.iss.thr = .prim → (s.iss.got.find? fun q => q.1 == BitVec.ofNat 6 (op.xbits 0 6)) = some q →
      exec (.rdres op) s = .next (s.putS op 1 0 q.2)) ∧
    ∀ k : Fin 8, op.xbits 3 3 = k.val → op.xbits 0 3 < 5 → s.iss.got = [] →
      ∃ t : State, exec (.rdres op) s = .next (t.putS op 1 0 ((vget (s.scav s.iss.core k).res (op.xbits 0 3)).setWidth 64)) ∧
        vget (t.scav s.iss.core k).res (op.xbits 0 3) = 0 ∧
        (∀ j, j < 5 → j ≠ op.xbits 0 3 → vget (t.scav s.iss.core k).res j = vget (s.scav s.iss.core k).res j) ∧
        t.mem = s.mem ∧ t.prim s.iss.core = s.prim s.iss.core) ∧
  (∀ (op : Op) (s : State), s.runs op = true →
    let n := op.x12.toNat
    let c := s.iss.core
    let x := s.srcS op.a op.la
    ((needsPriv n true = false ∨ s.privileged = true) → (s.sbtBusy n || s.spillHeld n x.1) = false → s.mtcBad c n x.1 s.issWords = none →
      (s.iss.thr = .prim → ∃ f : Flight, f.file = .ctl ∧ f.creg = op.x12 ∧ f.rcd = 1 ∧ f.val = Word.toVec x.1 ∧
        exec (.mtc op) s = .next (x.2.fly f)) ∧
      ∀ k, s.iss.thr = .scav k → exec (.mtc op) s = .next (x.2.landCtl c (.scav k) n x.1)) ∧
    ((needsPriv n true = false ∨ s.privileged = true) → (s.sbtBusy n || s.spillHeld n x.1) = true →
      exec (.mtc op) s = .next (s.block false s.qLimit codeQSTALL 7)) ∧
    ((needsPriv n true = false ∨ s.privileged = true) → (s.sbtBusy n || s.spillHeld n x.1) = false →
      ∀ b, s.mtcBad c n x.1 s.issWords = some b → exec (.mtc op) s = .next ((State.oweBack s x.2).raise b.1 0 b.2 0)) ∧
    (needsPriv n true = true → s.privileged = false → exec (.mtc op) s = .next ((State.oweBack s x.2).raise codePROT 6 0 0)) ∧
    ((decodeMfmt x.1).isSome = true → ∃ f : Flight, f.file = .mfmt ∧ f.rcd = 4 ∧ f.val = Word.toVec x.1 ∧
      exec (.msetf op) s = .next (x.2.fly f)) ∧
    ((decodeMfmt x.1).isSome = false → exec (.msetf op) s = .next ((State.oweBack s x.2).raise codeILLOP 0 s.issWords 0)))

/-! ## The scratchpad -/

/-- Scalar loads and stores that pass the checks of R139 (R136, R143, R146, R147): a load extends what its bytes hold, latency 4, or 5 for
`LDACQ`; a store writes the low bytes of its data register. On a scavenger at `.til` or wider, an acquire invalidates the clean lines of
its cache, and a release performs once its lines are written back. -/
def Obligations.ScalarAccesses : Prop :=
  (∀ w m, w ≤ 64 → 0 < w → (extendLoad false w m).toNat = m % 2 ^ w ∧ (extendLoad true w m).toInt = (BitVec.ofNat w m).toInt) ∧
  ∀ (op : Op) (s : State), s.runs op = true →
    let a := s.ea op
    let n := eszWidth op.esz / 8
    let u := s.claimPorts 1 [a.toNat]
    let v := extendLoad (Op.sx op) (8 * n) (s.load a.toNat n)
    let w := u.store true a.toNat n (s.dataS op).toNat
    (s.accessBad true false false n [(0, a)] = none →
      exec (.ld op) s = .next (u.putS op 4 0 v) ∧
      (s.iss.thr = .prim ∨ Op.lop op < 2 → exec (.ldacq op) s = .next (u.putS op 5 0 v)) ∧
      (s.iss.thr ≠ .prim → 2 ≤ Op.lop op → exec (.ldacq op) s = .next ((u.putS op 5 0 v).invalidateClean s.iss.core))) ∧
    (s.accessBad false true true n [(0, a)] = none →
      exec (.st op) s = .next w ∧
      (s.iss.thr = .prim ∨ Op.lop op < 2 → exec (.strel op) s = .next w) ∧
      ∀ k, s.iss.thr = .scav k → 2 ≤ Op.lop op → s.cacheFault s.iss.core k = none →
        exec (.strel op) s = .next (if (s.releaseLines s.iss.core k).2 then (s.releaseLines s.iss.core k).1.block true 0 0 0
          else (s.releaseLines s.iss.core k).1.scalarStore op))

/-- The checks of an access of the scratchpad (R139), of every load, store, full-empty access and atomic: in their order, an address that is not a
multiple of the access's size is `ALIGN`, one outside the scratchpad is `PROT` 1, an unmapped block is `PROT` 2, a spilled or busy one `PROT` 3, and
one that the protection unit refuses `PROT` 4; a strided or indexed access within the window of an earlier one, or over the capacity of a bank, is
`SLOTCLASH` (R141); an access of the primary that the watch matches is `WATCH` at the byte (R376); a write into a guarded span is `OPGUARD` at
the byte (R202). An atomic reads and writes (R155). Of a vector operation each row judges every unmasked element before the next row, and the
record names the lowest that fails. The failed access has no effect but its trap, with the address in `INFO`. That of a breach of both the spacing
and the capacity the spacing's element is named is the model's choice (log 114). -/
def Obligations.AccessChecks : Prop :=
  (∀ (op : Op) (s : State) (i : Instr) (a : Word) (n : Nat) (rd wr : Bool), s.runs op = true → s.iss.raised = none →
    (i, a, n, rd, wr) ∈ ([(.ld op, s.ea op, eszWidth op.esz / 8, true, false), (.ldacq op, s.ea op, eszWidth op.esz / 8, true, false),
      (.st op, s.ea op, eszWidth op.esz / 8, false, true), (.strel op, s.ea op, eszWidth op.esz / 8, false, true),
      (.ldf op, s.ea op, 8, true, false), (.ldfe op, s.ea op, 8, true, false), (.stf op, s.ea op, 8, false, true),
      (.atom op, s.eaBase op, eszWidth op.esz / 8, true, true), (.cas op, s.eaBase op, eszWidth op.esz / 8, true, true)] :
        List (Instr × Word × Nat × Bool × Bool)) →
    let c := s.iss.core
    let k := (s.core c).ctl
    let e := vget k.sbt (a.toNat / 32768)
    let traps := fun (code sub : BitVec 8) (info : Word) => exec i s = .next (s.raise code sub info 0)
    let allowed := (rd = true → permits k s.iss.thr false a.toNat = true) ∧ (wr = true → permits k s.iss.thr true a.toNat = true)
    let hit := fun (j : Nat) => s.iss.thr = .prim ∧ ((rd = true ∧ watchHits k false (a.toNat + j) = true) ∨ (wr = true ∧ watchHits k true (a.toNat + j) = true))
    let held := fun (j : Nat) => wr = true ∧ guardedByte (s.core c) (s.clock c) (physAddr k.sbt (a.toNat + j)) = true
    (a.toNat % n ≠ 0 → traps codeALIGN 0 a) ∧
    (a.toNat % n = 0 → 2 ^ 21 ≤ a.toNat → traps codePROT 1 a) ∧
    (a.toNat % n = 0 → a.toNat < 2 ^ 21 → e.getLsbD 63 = false → traps codePROT 2 a) ∧
    (a.toNat % n = 0 → a.toNat < 2 ^ 21 → e.getLsbD 63 = true → (e.getLsbD 62 || e.getLsbD 61) = true → traps codePROT 3 a) ∧
    (a.toNat % n = 0 → a.toNat < 2 ^ 21 → e.getLsbD 63 = true → (e.getLsbD 62 || e.getLsbD 61) = false →
      (¬ allowed → traps codePROT 4 a) ∧
      (allowed → ∀ j, j < n → hit j → (∀ l, l < j → ¬ hit l) → traps codeWATCH 0 (BitVec.ofNat 64 (a.toNat + j))) ∧
      (allowed → (∀ j, j < n → ¬ hit j) → ∀ j, j < n → held j → (∀ l, l < j → ¬ held l) → traps codeOPGUARD 0 (BitVec.ofNat 64 (a.toNat + j))))) ∧
  ∀ (op : Op) (s : State) (i : Instr) (es : List Elem) (cap : Nat) (wr : Bool), s.runs op = true → s.iss.thr = .prim →
    (i, es, cap, wr) ∈ ([(.vld op, s.contigElems op, 0, false), (.vldb op, s.bcastElems op, 0, false), (.vst op, s.contigElems op, 0, true),
      (.vlds op, s.stridedElems op, 4, false), (.vsts op, s.stridedElems op, 4, true), (.vldx op, s.indexedElems op, 8, false),
      (.vstx op, s.indexedElems op, 8, true)] : List (Instr × List Elem × Nat × Bool)) →
    let n := eszWidth op.esz / 8
    let k := (s.core s.iss.core).ctl
    let traps := fun (code sub : BitVec 8) (info : Word) (e : Nat) => exec i s = .next (s.raise code sub info e)
    let odd := es.find? fun e => decide (e.2.toNat % n ≠ 0)
    let outside := es.find? fun e => decide (2 ^ 21 ≤ e.2.toNat)
    let refused := es.find? fun e => (protSub k .prim wr e.2.toNat).isSome
    let word := BitVec.ofNat 64 ((s.core s.iss.core).wordAt .prim s.iss.waddr.toNat).toNat
    let near := (s.prim s.iss.core).spacing ≠ 0 ∨ s.secondSparse = true
    let bank := fun (d : Nat) => ((distinctDws es).filter fun x => x % 512 == d / 8 % 512).length
    let crowded := es.find? fun e => decide (cap < bank e.2.toNat)
    let hit := fun (e : Elem) => (List.range n).find? fun j => watchHits k wr (e.2.toNat + j)
    let held := fun (e : Elem) => (List.range n).find? fun j =>
      wr && guardedByte (s.core s.iss.core) (s.clock s.iss.core) (physAddr k.sbt (e.2.toNat + j))
    (∀ e, odd = some e → traps codeALIGN 0 e.2 e.1) ∧
    (∀ e, odd = none → outside = some e → traps codePROT 1 e.2 e.1) ∧
    (∀ e sub, odd = none → outside = none → refused = some e → protSub k .prim wr e.2.toNat = some sub → traps codePROT sub e.2 e.1) ∧
    (odd = none → outside = none → refused = none →
      (∀ e l, 0 < cap → es = e :: l → near → traps codeSLOTCLASH 0 word e.1) ∧
      (∀ e, 0 < cap → ¬ near → crowded = some e → traps codeSLOTCLASH 0 word e.1) ∧
      ((0 < cap → ¬ near ∧ crowded = none) →
        (∀ e j, es.find? (fun e => (hit e).isSome) = some e → hit e = some j → traps codeWATCH 0 (BitVec.ofNat 64 (e.2.toNat + j)) e.1) ∧
        (∀ e j, es.find? (fun e => (hit e).isSome) = none → es.find? (fun e => (held e).isSome) = some e → held e = some j →
          traps codeOPGUARD 0 (BitVec.ofNat 64 (e.2.toNat + j)) e.1)))

/-- Full-empty accesses that pass their checks (R149 to R152): `LDF` waits for full, reads and sets empty; `STF` waits for empty, writes
and sets full; `LDFE` reads the bit and changes it as `op` says, without data. Atomics (R154, R155): the bytes become what the operator
makes of the old value and the operand, and the old value is the result, latency 4; `CAS` stores its third operand where the old value
equals its second, and else nothing. That an atomic never forfeits a turn is the model's reading (log 95). -/
def Obligations.SynchronisingAccesses : Prop :=
  ((∀ (s : State) (p q : Nat) (b : Bool), s.memWf = true →
    (s.changeFe p b).isFull (s.keyOf p) = b ∧
    (s.keyOf q / 8 ≠ s.keyOf p / 8 → (s.changeFe p b).isFull (s.keyOf q) = s.isFull (s.keyOf q))) ∧
  ∀ (op : Op) (s : State), s.runs op = true →
    let a := s.ea op
    let u := s.claimPorts 1 [a.toNat]
    let full := s.isFull (s.keyOf a.toNat)
    (s.accessBad true false false 8 [(0, a)] = none →
      exec (.ldf op) s = .next (if full then (u.changeFe a.toNat false).putS op 4 0 (BitVec.ofNat 64 (s.load a.toNat 8))
        else s.block false s.feLimit codeFEWAIT a.toNat) ∧
      (Op.lop op = 0 → exec (.ldfe op) s = .next (u.putS op 4 0 (if full then 1 else 0))) ∧
      (Op.lop op = 1 → exec (.ldfe op) s = .next ((u.changeFe a.toNat false).putS op 4 0 (if full then 1 else 0))) ∧
      (Op.lop op = 2 → exec (.ldfe op) s = .next ((u.changeFe a.toNat true).putS op 4 0 (if full then 1 else 0)))) ∧
    (s.accessBad false true true 8 [(0, a)] = none →
      exec (.stf op) s = .next (if full then s.block false s.feLimit codeFEWAIT a.toNat
        else (u.store false a.toNat 8 (s.dataS op).toNat).changeFe a.toNat true))) ∧
  ((∀ w x y, w ∈ [32, 64] → x < 2 ^ w → y < 2 ^ w →
    let i := fun (v : Nat) => (BitVec.ofNat w v).toInt
    atomNew 0 w x y = (x + y) % 2 ^ w ∧
    (∀ b, (atomNew 1 w x y).testBit b = (x.testBit b && y.testBit b)) ∧ (∀ b, (atomNew 2 w x y).testBit b = (x.testBit b || y.testBit b)) ∧
    (∀ b, (atomNew 3 w x y).testBit b = (x.testBit b != y.testBit b)) ∧
    i (atomNew 4 w x y) = min (i x) (i y) ∧ i (atomNew 5 w x y) = max (i x) (i y) ∧
    atomNew 6 w x y = min x y ∧ atomNew 7 w x y = max x y ∧ atomNew 8 w x y = y) ∧
  ∀ (op : Op) (s : State), s.runs op = true →
    let a := s.eaBase op
    let w := eszWidth op.esz
    let n := w / 8
    let u := s.claimPorts 1 [a.toNat]
    let x := s.load a.toNat n
    let y := (s.valS op.b op.lb).toNat % 2 ^ w
    let z := (s.valS op.c op.lc).toNat % 2 ^ w
    s.atomBad n a = none →
    exec (.atom op) s = .next ((u.store false a.toNat n (atomNew (op.c.toNat % 16) w x y)).putS op 4 0 (BitVec.ofNat 64 x)) ∧
    exec (.cas op) s = .next ((if x = y then u.store false a.toNat n z else u).putS op 4 0 (BitVec.ofNat 64 x)))

/-- Vector loads and stores that pass their checks (R144, R145): each unmasked element is read from its own address and every other
element of a loaded vector is zero; latency 6, or 10 for the indexed form; a strided or indexed access keeps others of its kind away
(R141). -/
def Obligations.VectorAccesses : Prop :=
  (∀ (s : State) (w : Nat) (es : List Elem), w ∈ [8, 16, 32, 64] → (es.map Prod.fst).Nodup → (∀ e ∈ es, e.1 < 4096 / w) →
    ∀ j, j < 4096 / w → (s.gather w es).toNat / 2 ^ (w * j) % 2 ^ w =
      match es.find? fun e => e.1 == j with
      | some e => s.load e.2.toNat (w / 8)
      | none => 0) ∧
  ∀ (op : Op) (s : State), s.runs op = true →
    let w := eszWidth op.esz
    let claim := fun (n : Nat) (es : List Elem) => s.claimPorts n (es.map fun e => e.2.toNat)
    let ec := s.contigElems op
    let eb := s.bcastElems op
    let es := s.stridedElems op
    let ei := s.indexedElems op
    (s.accessBad true false false (w / 8) ec = none → exec (.vld op) s = .next ((claim 1 ec).putV op 6 0 (s.gather w ec))) ∧
    (s.accessBad true false false (w / 8) eb = none → exec (.vldb op) s = .next ((claim 1 eb).putV op 6 0 (s.gather w eb))) ∧
    (s.sparseBad false 4 (w / 8) es = none → exec (.vlds op) s = .next (((claim 4 es).putV op 6 0 (s.gather w es)).spaced 4)) ∧
    (s.sparseBad false 8 (w / 8) ei = none → exec (.vldx op) s = .next (((claim 8 ei).putV op 10 0 (s.gather w ei)).spaced 8)) ∧
    (s.accessBad false true true (w / 8) ec = none → exec (.vst op) s = .next ((claim 1 ec).scatter w (s.dataV op) ec)) ∧
    (s.sparseBad true 4 (w / 8) es = none → exec (.vsts op) s = .next (((claim 4 es).scatter w (s.dataV op) es).spaced 4)) ∧
    (s.sparseBad true 8 (w / 8) ei = none → exec (.vstx op) s = .next (((claim 8 ei).scatter w (s.dataV op) ei).spaced 8))

/-- The frame of the operations that store: of the scalar ones and the read-modify-write ones, only the bytes from the address that the
operation computes, as many as its width, may change, only their doublewords' full-empty bits, and no register but those in flight; of the
vector stores, only the bytes of the unmasked elements' addresses, in the form's own address form. -/
def Obligations.StoreFrames : Prop :=
  (∀ (op : Op) (s t : State) (i : Instr), s.memWf = true →
    i ∈ [Instr.st op, .strel op, .stf op, .ldf op, .ldfe op, .atom op, .cas op] → exec i s = .next t →
    let a := match i with | .atom _ | .cas _ => s.eaBase op | _ => s.ea op
    let n := match i with | .stf _ => 8 | .ldf _ | .ldfe _ => 0 | _ => eszWidth op.esz / 8
    let key := fun j => progKey (s.sbt s.iss.core) s.iss.core (a.toNat + j)
    s.coreFrame t ∧
    (∀ k, (∀ j, j < n → k ≠ key j) → Memory.get t.mem k = Memory.get s.mem k) ∧
    ∀ k, (∀ j, j < 8 → k / 8 ≠ key j / 8) → t.isFull k = s.isFull k) ∧
  (∀ (op : Op) (s t : State) (i : Instr) (es : List Elem), s.memWf = true →
    (i, es) ∈ [(Instr.vst op, s.contigElems op), (.vsts op, s.stridedElems op), (.vstx op, s.indexedElems op)] → exec i s = .next t →
    s.coreFrame t ∧
    ∀ k, (∀ e ∈ es, ∀ j, j < eszWidth op.esz / 8 → k ≠ progKey (s.sbt s.iss.core) s.iss.core (e.2.toNat + j)) →
      Memory.get t.mem k = Memory.get s.mem k)

/-- The scavenger cache (R139, R156 to R158, R160, R348): a misaligned access is `ALIGN`, one outside its domains `PROT` 7, one whose thread
a failed fill concerns `PROT` 8 (log 94); an uncached access of domain `0x7` sends one packet to its home, its thread is not ready until the answer has
come, and it then has its result or is `PROT` 8 (log 63); an access that finds a line that it may read, reads or writes it, with the byte-dirty and
writer masks; one that does not starts a fill and waits; `FLUSHC` waits for a dirty line's write-back (log 115), and at `.til` and wider for the
thread's own lines. A store to a line that only the threads waiting before an acquire may read goes to its home at once (log 108). -/
def Obligations.CachedAccesses : Prop :=
  ∀ (op : Op) (s : State) (k : Fin 8), s.runs op = true → s.iss.thr = .scav k →
    let c := s.iss.core
    let a := s.ea op
    let n := eszWidth op.esz / 8
    let line := a.toNat / 32 * 32
    let back := (s.core c).qnet.any fun p => p.kind == .writeBack && p.a.toNat == line
    (∀ i ∈ [Instr.ldc op, .stc op], (a.toNat % n ≠ 0 → exec i s = .next (s.raise codeALIGN 0 a 0)) ∧
      (a.toNat % n = 0 → cacheDomOk a = false → exec i s = .next (s.raise codePROT 7 a 0)) ∧
      ∀ q, a.toNat % n = 0 → cacheDomOk a = true → domOf a.toNat ≠ 7 → s.cacheFault c k = some q → exec i s = .next (q.2.raiseFill q.1)) ∧
    (a.toNat % n = 0 → cacheDomOk a = true → domOf a.toNat = 7 →
      let ask := (s.scav c k).ask
      let done := s.modScav c k fun x => { x with ask := none }
      let load := Payload.words [BitVec.ofNat 64 n, s.iss.stamp]
      (ask = none → ∀ q ∈ [(Instr.ldc op, 0, 0), (.stc op, 3, s.srcH k op.dst)], ∃ t : State, exec q.1 s = .next (t.block false 0 0 0) ∧
        (t.scav c k).ask = some none ∧ t.mem = s.mem ∧ (t.core c).slotQ = (s.core c).slotQ ++ [⟨1, s.regWay c (abits a.toNat 42 10), 2, .scavengerCacheFill,
          { core := c, thr := .scav k, port := .portA, id := a.toNat, n := q.2.1, k := 0, dw := q.2.2, load := load }⟩]) ∧
      (ask = some none → ∀ i ∈ [Instr.ldc op, .stc op], exec i s = .next (s.block false 0 0 0)) ∧
      (∀ w, ask = some (some (some w)) → exec (.stc op) s = .next done ∧
        exec (.ldc op) s = .next (done.putS op 1 0 (extendLoad (Op.sx op) (8 * n) (w.toNat / 2 ^ (8 * (a.toNat % 8)))))) ∧
      (ask = some (some none) → ∀ i ∈ [Instr.ldc op, .stc op],
        exec i s = .next (done.raise codePROT 8 (BitVec.ofNat 64 (2 * 2 ^ 56 + a.toNat % 2 ^ 56)) 0))) ∧
    (a.toNat % n = 0 → cacheDomOk a = true → domOf a.toNat ≠ 7 → s.cacheFault c k = none →
      (∀ l, (s.core c).hit k line = some l →
        exec (.ldc op) s = .next ((s.modCore c fun x => x.usedLine k l).putS op 1 0
          (extendLoad (Op.sx op) (8 * n) (lineRead l.data (a.toNat % 32) n))) ∧
        ∃ m : CLine, m.addr = l.addr ∧ m.readers = l.readers ∧
          (∀ b, b < n → m.data.extractLsb' (8 * (a.toNat % 32 + b)) 8 = (s.srcH k op.dst).extractLsb' (8 * b) 8) ∧
          (∀ b, b < 32 → (b < a.toNat % 32 ∨ a.toNat % 32 + n ≤ b) → m.data.extractLsb' (8 * b) 8 = l.data.extractLsb' (8 * b) 8) ∧
          (∀ b, b < 32 → m.dirty.getLsbD b = (l.dirty.getLsbD b || (decide (a.toNat % 32 ≤ b) && decide (b < a.toNat % 32 + n)))) ∧
          m.writers = l.writers ||| (1#8 <<< k.val) ∧
          (l.readers = none → exec (.stc op) s = .next (s.modCore c fun x => x.touchLine m)) ∧
          (l.readers ≠ none → exec (.stc op) s = .next ((s.modCore c fun x => x.usedLine k l).writeBackLine c m))) ∧
      ((s.core c).hit k line = none →
        ∀ i ∈ [Instr.ldc op, .stc op], exec i s = .next ((s.startFill c line).block true 0 0 (waitFill line)))) ∧
    (Op.lop op < 2 → a.toNat % n = 0 → cacheDomOk a = true → s.cacheFault c k = none →
      ((s.core c).line line = none → exec (.flushc op) s = .next (if back then s.block true 0 0 (waitBack line) else s)) ∧
      (∀ l, (s.core c).line line = some l → l.dirty ≠ 0 →
        exec (.flushc op) s =
          .next ((s.writeBackLine c { l with writers := l.writers ||| (1#8 <<< k.val) }).block true 0 0 (waitBack line))) ∧
      (∀ l, (s.core c).line line = some l → l.dirty = 0 → exec (.flushc op) s = .next (if back then s.block true 0 0 (waitBack line)
        else if Op.lop op = 1 then s.modCore c fun x => { x with cache := x.cache.filter fun m => m.addr != line } else s))) ∧
    (2 ≤ Op.lop op → s.cacheFault c k = none →
      exec (.flushc op) s = .next (if (s.releaseLines c k).2 then (s.releaseLines c k).1.block true 0 0 0
        else if Op.lop op = 3 then (s.releaseLines c k).1.invalidateClean c else (s.releaseLines c k).1))

/-! ## Vectors -/

/-- The elementwise operations (R162, R165, R167, R169 to R171, R184 to R187): each live element of the result is the operation of its
sources' elements, each other keeps the destination's old element; flags are the union over the live elements, and an enabled one raises
`FPX`. Integers wrap modulo 2^w, latency 2; floating point, latency 4; the approximations, latency 8, which the model computes in fixed
point (log 8). A vector made of w-bit elements
holds them, lowest first, and a mask made of their truth values governs them (R40). -/
def Obligations.LanewiseOperations : Prop :=
  (∀ w ∈ [4, 8, 16, 32, 64], ∀ l : List Nat, l.length = 4096 / w → ∀ e, e < 4096 / w →
    el (Vec.elems w (Vec.ofElems w l)) e = el l e % 2 ^ w ∧ (Vec.elems w (Vec.ofElems w l)).length = 4096 / w ∧
    (8 ≤ w → ∀ bs : List Bool, bs.length = 4096 / w → governs (maskOf w bs) w e = (bs[e]?).getD false)) ∧
  (∀ (op : Op) (s : State) (i : Instr) (n w lat : Nat) (f : Nat → Nat → Nat → FRes), s.runs op = true →
    let t := arithTy op
    let fm := fmtOf t
    let m := modeOf op t
    let g := operandF fm m.ftz
    let z := intOf t
    let fl := flushOf op
    let lw := (logicTy op).width
    let tr := fun (h : FMode → FVal → FRes) (x _ _ : Nat) => deliverF t ⟨0, false, fl⟩ (h ⟨0, false, fl⟩ (operandF fm fl x))
    (i, n, w, lat, f) ∈ ((if t.isFloat then
        [(.vadd op, 2, t.width, 4, fun x y _ => sumF fm m [g x, g y]), (.vsub op, 2, t.width, 4, fun x y _ => sumF fm m [g x, (g y).negate]),
         (.vmul op, 2, t.width, 4, fun x y _ => mulF fm m (g x) (g y)), (.vfma op, 3, t.width, 4, fun x y c => fmaF fm m (g x) (g y) (g c)),
         (.vfms op, 3, t.width, 4, fun x y c => fmaF fm m (g x) (g y) (g c).negate),
         (.vmin op, 2, t.width, 4, fun x y _ => minmaxF fm fl false x y), (.vmax op, 2, t.width, 4, fun x y _ => minmaxF fm fl true x y),
         (.vabs op, 1, t.width, 2, fun x _ _ => FRes.of (x % 2 ^ (t.width - 1))),
         (.vneg op, 1, t.width, 2, fun x _ _ => FRes.of ((x + 2 ^ (t.width - 1)) % 2 ^ t.width))]
      else
        [(.vadd op, 2, t.width, 2, fun x y _ => wrapRes t.width (z x + z y)), (.vsub op, 2, t.width, 2, fun x y _ => wrapRes t.width (z x - z y)),
         (.vmul op, 2, t.width, 2, fun x y _ => wrapRes t.width (z x * z y)), (.vfma op, 3, t.width, 2, fun x y c => wrapRes t.width (z x * z y + z c)),
         (.vfms op, 3, t.width, 2, fun x y c => wrapRes t.width (z x * z y - z c)),
         (.vmin op, 2, t.width, 2, fun x y _ => FRes.of (if z y < z x then y else x)),
         (.vmax op, 2, t.width, 2, fun x y _ => FRes.of (if z x < z y then y else x)),
         (.vabs op, 1, t.width, 2, fun x _ _ => wrapRes t.width ((z x).natAbs : Int)), (.vneg op, 1, t.width, 2, fun x _ _ => wrapRes t.width (-(z x)))]) ++
      [(.vand op, 2, lw, 2, fun x y _ => FRes.of (x &&& y)), (.vor op, 2, lw, 2, fun x y _ => FRes.of (x ||| y)),
       (.vxor op, 2, lw, 2, fun x y _ => FRes.of (x ^^^ y)),
       (.vshl op, 2, lw, 2, fun x y _ => FRes.of (if lw ≤ y then 0 else x * 2 ^ y % 2 ^ lw)),
       (.vshr op, 2, lw, 2, fun x y _ => FRes.of (if lw ≤ y then 0 else x / 2 ^ y)),
       (.vsar op, 2, lw, 2, fun x y _ => wrapRes lw ((BitVec.ofNat lw x).toInt / 2 ^ (min y lw))),
       (.vmov op, 1, lw, 2, fun x _ _ => FRes.of x),
       (.vord op, 1, t.width, 2, fun x _ _ => FRes.of (ordKey t (op.x12.getLsbD 0) (op.x12.getLsbD 1) (op.x12.getLsbD 2) x)),
       (.vexp2 op, 1, t.width, 8, tr exp2F), (.vlog2 op, 1, t.width, 8, tr log2F), (.vrcp op, 1, t.width, 8, tr rcpF),
       (.vrsq op, 1, t.width, 8, tr rsqF), (.vtanh op, 1, t.width, 8, tr tanhF)] :
        List (Instr × Nat × Nat × Nat × (Nat → Nat → Nat → FRes))) →
    let src := s.srcE op n w
    let k := s.wmask op
    let h := fun (e : Nat) => f (el src.1 e) (el src.2.1 e) (el src.2.2.1 e)
    ∃ (l : List Nat) (flg : BitVec 6), l.length = 4096 / w ∧
      (∀ e, e < 4096 / w → el l e = if governs k w e then (h e).bits else el (s.oldElems op w) e) ∧
      (∀ b, flg.getLsbD b = true ↔ ∃ e, e < 4096 / w ∧ governs k w e = true ∧ (h e).flg.getLsbD b = true) ∧
      (flg &&& s.fpxen = 0 → exec i s = .next (src.2.2.2.putV op lat flg (Vec.ofElems w l))) ∧
      (flg &&& s.fpxen ≠ 0 → exec i s =
        .next (((State.oweBack s src.2.2.2).orFpstat flg).raise codeFPX 0 ((flg &&& s.fpxen).setWidth 64) 0)))

/-- Compares, masks and conversions (R172 to R177): `VCMP` sets the mask bits of the live elements for which the condition holds and
clears every other; `VSEL` takes the first source where governed and the second elsewhere; `KLOG` works on masks bit by bit; `VPOPK`
counts; `VCVT`, `VPACK` and `VUNPK` give elements of the destination's width. -/
def Obligations.VectorMasksAndConversions : Prop :=
  ∀ (op : Op) (s : State), s.runs op = true →
    let t := arithTy op
    let k := s.wmask op
    let lw := (logicTy op).width
    let ew := eszWidth op.esz
    let ty := convTys op
    let wd := ty.1.width
    let src := s.srcE op 2 t.width
    let sl := s.srcE op 2 lw
    let sp := s.srcE op 2 ty.2.width
    let su := s.srcE op 1 ty.2.width
    let old := s.oldElems op wd
    let cmp := fun (e : Nat) => compareE t (flushOf op) op.modifier (el src.1 e) (el src.2.1 e)
    let merged := fun (l : List Nat) (new : List Nat) =>
      l.length = 4096 / wd ∧ ∀ e, e < 4096 / wd → el l e = if governs k wd e then el new e else el old e
    (∃ (bs : List Bool) (flg : BitVec 6), bs.length = 4096 / t.width ∧
      (∀ e, e < 4096 / t.width → (bs[e]?).getD false = (governs k t.width e && (cmp e).1)) ∧
      (∀ b, flg.getLsbD b = true ↔ ∃ e, e < 4096 / t.width ∧ governs k t.width e = true ∧ (cmp e).2.getLsbD b = true) ∧
      (flg &&& s.fpxen = 0 → exec (.vcmp op) s = .next (src.2.2.2.putK op 2 flg (maskOf t.width bs)))) ∧
    (∃ l : List Nat, l.length = 4096 / lw ∧ (∀ e, e < 4096 / lw → el l e = if governs k lw e then el sl.1 e else el sl.2.1 e) ∧
      exec (.vsel op) s = .next (sl.2.2.2.putV op 2 0 (Vec.ofElems lw l))) ∧
    (∃ m : Mask, (∀ b, b < 512 → m.getLsbD b = logF op.modifier ((s.vregs.rdK op.a).getLsbD b) ((s.vregs.rdK op.b).getLsbD b)) ∧
      exec (.klog op) s = .next (s.putK op 2 0 m)) ∧
    exec (.vpopk op) s =
      .next (s.putS op 2 0 (BitVec.ofNat 64 ((List.range (4096 / ew)).filter fun e => governs (s.vregs.rdK op.a) ew e).length)) ∧
    (∃ (l : List Nat) (flg : BitVec 6),
      let ws := ty.2.width
      let n := 4096 / max ws wd
      let p := op.c.toNat
      let lives := fun (e : Nat) => governs k wd e && (decide (ws < wd) || (decide (p * n ≤ e) && decide (e < p * n + n)))
      let r := fun (e : Nat) => convertBits op false ty.1 ty.2 (el su.1 (if ws < wd then p * n + e else e - p * n))
      l.length = 4096 / wd ∧ (∀ e, e < 4096 / wd → el l e = if lives e then (r e).bits else el old e) ∧
      (∀ b, flg.getLsbD b = true ↔ ∃ e, e < 4096 / wd ∧ lives e = true ∧ (r e).flg.getLsbD b = true) ∧
      (flg &&& s.fpxen = 0 → exec (.vcvt op) s = .next (su.2.2.2.putV op 3 flg (Vec.ofElems wd l)))) ∧
    (2 * wd = ty.2.width → ∃ l, merged l ((sp.1 ++ sp.2.1).map fun x => wrapInt wd (max ty.1.lo (min ty.1.hi (intOf ty.2 x)))) ∧
      exec (.vpack op) s = .next (sp.2.2.2.putV op 3 0 (Vec.ofElems wd l))) ∧
    (op.c.toNat * (4096 / wd) + 4096 / wd ≤ 4096 / ty.2.width →
      ∃ l, merged l ((su.1.drop (op.c.toNat * (4096 / wd))).map fun x => wrapInt wd (intOf ty.2 x)) ∧
      exec (.vunpk op) s = .next (su.2.2.2.putV op 3 0 (Vec.ofElems wd l)))

/-- Reductions, scans, permutations and histograms (R178 to R184, R188): the tree of R61 and the levels of R62 over the live elements,
the identity in place of the others; permuted, slid, compressed, extracted, inserted and broadcast elements; the counts of digits. -/
def Obligations.VectorMovement : Prop :=
  ∀ (op : Op) (s : State), s.runs op = true →
    let t := arithTy op
    let w := t.width
    let k := s.wmask op
    let lw := (logicTy op).width
    let n := 4096 / lw
    let ew := eszWidth op.esz
    let s1 := s.srcE op 1 w
    let a1 := s.srcE op 1 lw
    let a2 := s.srcE op 2 lw
    let x1 := s.srcE op 1 ew
    let masked := maskedIn k w (identityE op t) s1.1
    let red := treeOf (combineE op t) (Nat.log2 (4096 / w)) masked 0
    let scan := scanOf (combineE op t) (Nat.log2 (4096 / w)) 1 masked 0
    let merged := fun (l : List Nat) (new : Nat → Nat) =>
      l.length = n ∧ ∀ e, e < n → el l e = if governs k lw e then new e else el (s.oldElems op lw) e
    (red.2 &&& s.fpxen = 0 → exec (.vred op) s =
      .next (s1.2.2.2.putS op 6 red.2 (if t.isSigned then (BitVec.ofNat w red.1).signExtend 64 else BitVec.ofNat 64 red.1))) ∧
    (scan.2 &&& s.fpxen = 0 → exec (.vscan op) s =
      .next (s1.2.2.2.putV op 8 scan.2 (Vec.ofElems w (if op.x12.getLsbD 3 then identityE op t :: scan.1.dropLast else scan.1)))) ∧
    (∃ l, merged l (fun e => el a2.1 (if lw = 8 then e / 256 * 256 + el a2.2.1 e else el a2.2.1 e % n)) ∧
      exec (.vperm op) s = .next (a2.2.2.2.putV op 3 0 (Vec.ofElems lw l))) ∧
    (op.modifier + 1 ≤ n → ∃ l, merged l (fun e => if e < op.modifier + 1 then el a2.2.1 (n - (op.modifier + 1) + e) else el a2.1 (e - (op.modifier + 1))) ∧
      exec (.vslide op) s = .next (a2.2.2.2.putV op 3 0 (Vec.ofElems lw l))) ∧
    exec (.vcompr op) s = .next (a1.2.2.2.putV op 3 0
      (Vec.ofElems lw (((List.range n).filter fun e => governs k lw e).map fun e => el a1.1 e))) ∧
    exec (.vext op) s = .next (x1.2.2.2.putS op 3 0 (BitVec.ofNat 64 (el x1.1 (s.elemIndex op ew)))) ∧
    (∃ l, l.length = 4096 / ew ∧ (∀ e, e < 4096 / ew →
        el l e = if e = s.elemIndex op ew then (s.valS op.a op.la).toNat % 2 ^ ew else el (s.oldElems op ew) e) ∧
      exec (.vins op) s = .next (s.putV op 2 0 (Vec.ofElems ew l))) ∧
    (∃ l, merged l (fun _ => (s.valS op.a op.la).toNat % 2 ^ lw) ∧ exec (.vbcast op) s = .next (s.putV op 2 0 (Vec.ofElems lw l))) ∧
    (op.xbits 6 3 < 7 →
      let keys := s.srcV op.a op.la (Op.xa op) ew
      let bins := keys.2.srcV op.b op.lb (Op.xb op) ew
      let counted := fun (d : Nat) => ((List.range (4096 / ew)).filter fun e => governs (s.vregs.rdK op.c) ew e &&
        el (Vec.elems ew keys.1) e / 2 ^ op.xbits 0 6 % 2 ^ (op.xbits 6 3 + 1) == d).length
      ∃ l, l.length = 128 ∧ (∀ d, d < 128 → el l d = (el (Vec.elems 32 bins.1) d + counted d) % 2 ^ 32) ∧
        exec (.vhist op) s = .next (bins.2.putV op 6 0 (Vec.ofElems 32 l)))

/-! ## The matrix engine -/

/-- Entering `Q.MX` (R200, R201): the entry stands last with its values, its array phase begins after the last entry's has ended and no
sooner than the next cycle, and it completes no sooner than the entry before it; registers and memory stand. The operations that enter
`Q.MX` (R189 to R204, R209): with their operands legal, their spans mapped and permitted and a place free, `MMA`, `MMAS`, `MLATCH`, `MZERO`
and `MCMPR` enter it with what the bundle reads; with no place the bundle waits. Which of several bad spans `INFO` names is the model's (log 120),
and no clause rests on it. -/
def Obligations.MatrixQueue : Prop :=
  (∀ (s : State) (e : MEntry), 1 ≤ e.phase →
    let t := s.enqueueMx e
    let q := (s.core s.iss.core).qmx
    ∃ m : MEntry, (t.core s.iss.core).qmx = q ++ [m] ∧ m.kind = e.kind ∧ m.base = e.base ∧ m.mt = e.mt ∧ m.nt = e.nt ∧ m.a = e.a ∧
      m.b = e.b ∧ m.geom = e.geom ∧ m.mfmt = e.mfmt ∧ m.batch = e.batch ∧ m.z = e.z ∧ m.latch = e.latch ∧
      s.clock s.iss.core < m.start ∧ m.finish + 1 = m.start + e.phase ∧ m.finish < m.complete ∧
      (∀ l, q.getLast? = some l → l.finish < m.start ∧ l.complete ≤ m.complete) ∧
      t.prim s.iss.core = s.prim s.iss.core ∧ t.mem = s.mem ∧ t.empty = s.empty) ∧
  (∀ (op : Op) (s : State), s.runs op = true →
    let a := s.valS op.a op.la
    let b := s.valS op.b op.lb
    let g := s.valS op.c op.lc
    let f := mfmtOf (s.prim s.iss.core).mfmt
    let k := geomK g
    let bl := op.x12.getLsbD 5
    let en := fun (kind : MKind) => { s.newEntry kind op with
      latch := if bl then some ⟨op.b.toNat % 4, Nat.mod_lt _ (by decide)⟩ else none
      z := op.x12.getLsbD 6, a := a.toNat, b := (if bl then 0 else b).toNat, geom := g }
    let la := a + Op.imm12 op
    let el_ := { s.newEntry .mlatch op with base := op.dst.toNat % 4, mt := 1, nt := 1, a := la.toNat }
    let ez := s.newEntry .mzero op
    let mt_ := (mcmprTy op.tyCode op.esz).getD .f16
    let ec := { s.newEntry .mcmpr op with base := 0, mt := 1, nt := 1, ty := op.tyCode, a := a.toNat, b := b.toNat, geom := g }
    let kc := Word.bits g 0 16
    let enters := fun (i : Instr) (e : MEntry) =>
      ((s.core s.iss.core).qmx.length < 8 → exec i s = .next (s.enqueueMx e)) ∧
      (8 ≤ (s.core s.iss.core).qmx.length → exec i s = .next (s.block false s.qLimit codeQSTALL 4))
    (∀ p ∈ [(Instr.mma op, MKind.mma), (.mmas op, .mmas)],
      Word.bits g 48 16 = 0 → 1 ≤ k → k ≤ 32768 → k % f.pair.granule = 0 → (p.2 = .mmas → f.sp ≠ 0) →
      (bl = true → (en p.2).cols * elemBytes f.tb k ≤ 2048 ∧ f.ta ≠ .f4e2 ∧ f.sp ≠ 2) →
      a.toNat % 8 = 0 → (bl = false → b.toNat % 8 = 0) → s.spanBad false a.toNat (en p.2).spanA = none →
      (bl = false → s.spanBad false b.toNat (en p.2).spanB = none) →
      s.unlandedTile op.dst.toNat ((op.xbits 0 2 + 1) * (op.xbits 2 3 + 1)) = none → enters p.1 (en p.2)) ∧
    (la.toNat % 8 = 0 → s.spanBad false la.toNat 2048 = none → enters (.mlatch op) el_) ∧
    (s.unlandedTile op.dst.toNat ((op.xbits 0 2 + 1) * (op.xbits 2 3 + 1)) = none → enters (.mzero op) ez) ∧
    (1 ≤ Word.bits g 48 16 → Word.bits g 48 16 ≤ 1024 → 8 ≤ kc → kc ≤ 32768 → kc % 8 = 0 → a.toNat % 8 = 0 → b.toNat % 8 = 0 →
      s.spanBad true a.toNat (mcmprDstSpan mt_ g) = none → s.spanBad false b.toNat (mcmprSrcSpan mt_ g) = none →
      enters (.mcmpr op) ec))

/-- Tiles and batches (R205 to R208): `MRD` reads and `MWR` writes half a tile that no queued step targets, else `ACCBUSY`; `MCOMMIT`
closes the open batch under its number modulo 4 and waits while four are open; `MWAIT` waits until all of `Q.MX` is complete, or until the most
recent batch of its number is, whatever else stands in the queue; a number that no batch has been given lets it go on at once. -/
def Obligations.TilesAndBatches : Prop :=
  ∀ (op : Op) (s : State), s.runs op = true →
    let p := s.prim s.iss.core
    let q := (s.core s.iss.core).qmx
    let n := p.commits
    let t := p.regs.rdA op.a.toNat
    let targets := fun (x : Nat) => q.any fun e => decide (e.base ≤ x) && decide (x < e.base + e.tiles)
    (targets op.a.toNat = false → ∃ v : Vec, (∀ i, i < 4096 → v.getLsbD i = t.getLsbD (4096 * op.xbits 0 1 + i)) ∧
      exec (.mrd op) s = .next (s.putV op 8 0 v)) ∧
    (targets op.a.toNat = true → exec (.mrd op) s = .next (s.raise codeACCBUSY 0 (BitVec.ofNat 64 op.a.toNat) 0)) ∧
    (targets op.dst.toNat = false → ∃ f : Flight, f.file = .tileHalf ∧ f.reg = op.dst ∧ f.half = op.x12.getLsbD 0 ∧ f.rcd = 4 ∧
      f.val = (s.srcV op.a op.la false 64).1 ∧ exec (.mwr op) s = .next (s.fly f)) ∧
    ((n < 4 ∨ s.batchDone (n - 4) = true) → ∃ u : State, exec (.mcommit op) s = .next (u.putS op 1 0 (BitVec.ofNat 64 (n % 4))) ∧
      (u.prim s.iss.core).commits = n + 1 ∧ (u.prim s.iss.core).regs = p.regs ∧ u.mem = s.mem) ∧
    (4 ≤ n → s.batchDone (n - 4) = false → exec (.mcommit op) s = .next (s.block false s.qLimit codeQSTALL 7)) ∧
    (op.x12.getLsbD 2 = true →
      exec (.mwait op) s = .next (if q.isEmpty then s else s.block false s.qLimit codeQSTALL 7)) ∧
    let b := if op.x12.getLsbD 3 then (s.valS op.a op.la).toNat % 4 else op.xbits 0 2
    (op.x12.getLsbD 2 = false → (p.given.getLsbD b = false ∨ ∀ j, j < n → n ≤ j + 4 → j % 4 ≠ b) → exec (.mwait op) s = .next s) ∧
    (op.x12.getLsbD 2 = false → p.given.getLsbD b = true → ∀ j, j < n → n ≤ j + 4 → j % 4 = b →
      exec (.mwait op) s = .next (if s.batchDone j then s else s.block false s.qLimit codeQSTALL 7))

/-! ## Engines, ports, tags -/

/-- Entering an engine queue or the injection buffer (R215, R217, R218): the operation stands last in its queue under a new number, its tag
counts one operation more, and, at the head, its start is due. Copies, gathers, scatters and collectives (R214, R222 to R226): with their
operands legal and a place free they enter their queues with the values that the bundle reads; a full queue denies them. A collective counts
as one use of its group by the member. -/
def Obligations.EngineQueues : Prop :=
  (∀ (s : State) (q : QKind) (p : Pend) (i : Nat), p.thr = s.iss.thr → p.tag = i → i < 8 →
    let c := s.iss.core
    let t := s.enterQ q p
    let tag := fun (u : State) => match s.iss.thr with | .prim => vget (u.prim c).tags i | .scav k => vget (u.scav c k).tags i
    (∃ m : Pend, (t.core c).queue q = (s.core c).queue q ++ [m] ∧ m = { p with id := (s.core c).nextId }) ∧
    (∀ r, r ≠ q → (t.core c).queue r = (s.core c).queue r) ∧
    (tag t).count = (tag s).count + 1 ∧ ((tag s).count = 0 → (tag t).ready = false ∧ (tag t).status = 0) ∧
    ((s.core c).queue q = [] → ∃ it ∈ t.agenda, it.what = .queueEntryStart ∧ it.arg.core = c ∧ it.arg.id = (s.core c).nextId) ∧
    t.mem = s.mem) ∧
  (∀ (op : Op) (s : State), s.runs op = true →
    let c := s.iss.core
    let v := fun (k : PKind) => s.pendOf op k
    let a := (v .xcp).a
    let b := (v .xcp).b
    let g := (v .xcp).c
    let enters := fun (i : Instr) (q : QKind) (p : Pend) =>
      (((s.core c).queue q).length < q.size → exec i s = .next (s.enterQ q p)) ∧
      (q.size ≤ ((s.core c).queue q).length → exec i s = .next (s.denied q.code))
    (g.toNat < 2 ^ 32 → s.gloBad copyDoms true a g.toNat = none → s.gloBad copyDoms false b g.toNat = none → enters (.xcp op) .cp (v .xcp)) ∧
    (s.gloBad copyDoms true a 0 = none → s.gloBad copyDoms false b 0 = none →
      (∀ r ∈ rowsOf a b g, (domOf a.toNat = 0 → s.locBad true (BitVec.ofNat 64 r.2.1) r.2.2 = none) ∧
        (domOf b.toNat = 0 → s.locBad false (BitVec.ofNat 64 r.1) r.2.2 = none)) → enters (.xcp2 op) .cp (v .xcp2)) ∧
    (firstBad (s.idxBad g) = none → s.locBad true a (idxCount g * 2 ^ op.xbits 0 3) = none → s.gloBad copyDoms false b 0 = none →
      s.locBad false (g &&& 0x1FFFFF) (4 * idxCount g) = none → enters (.xga op) .ga (v .xga)) ∧
    (firstBad (s.idxBad g) = none → s.gloBad copyDoms true a 0 = none → s.locBad false b (idxCount g * 2 ^ op.xbits 0 3) = none →
      s.locBad false (g &&& 0x1FFFFF) (4 * idxCount g) = none → enters (.xsc op) .ga (v .xsc)) ∧
    (Word.bits g 48 16 = 0 → alignBad 64 b = none → s.gloBad [2, 3, 8] false b 64 = none →
      s.locBad true a (Word.bits g 24 16 * s.tokenSize c b.toNat) = none → ((s.core c).queue .ga).length < 16 →
      let r := s.resolveXkvg c { v .xkvg with a := b, b := a }
      exec (.xkvg op) s = .next (if (s.core c).oldestXkvg.isNone then (r.2.enterQ .ga r.1).reportXkvg c else r.2.enterQ .ga r.1)) ∧
    let n := collCount g * (eszWidth op.esz / 8)
    (Word.bits g 34 30 = 0 → (collCount g = 0 → op.x12 = 0) → alignBad (eszWidth op.esz / 8) a = none → alignBad (eszWidth op.esz / 8) b = none →
      s.locBad true a n = none → s.locBad false b n = none → ((s.core c).queue .co).length < 8 →
      ∃ t : State, exec (.xcoll op) s = .next t ∧
        (t.core c).qco = (s.core c).qco ++ [{ v .xcoll with ws := [BitVec.ofNat 64 ((s.group (collGroup g)).count c)], id := (s.core c).nextId }] ∧
        (t.group (collGroup g)).count c = (s.group (collGroup g)).count c + 1))

/-- Fences and drains (R229 to R233): a fence has no effect but that a scavenger's at `.til` or wider writes back the thread's lines and
invalidates the clean ones, as does an `XDFENCE`, which hands the thread's stores to its later engine operations; `XFENCE` places join markers, and with
`.wait` goes on at once where nothing stands in its queues; `DRAIN`
and `PFENCE` wait for the thread's own operations, and `PFENCE` for its durable writes. -/
def Obligations.Fences : Prop :=
  ∀ (op : Op) (s : State), s.runs op = true →
    let c := s.iss.core
    let x := s.core c
    let m := op.xbits 0 4
    (s.iss.thr = .prim ∨ op.xbits 0 3 < 2 →
      exec (.fence op) s = .next s ∧ exec (.xdfence op) s = .next (s.modCore c fun x => x.fenceOld s.iss.thr)) ∧
    (∀ k, s.iss.thr = .scav k → 2 ≤ op.xbits 0 3 → s.cacheFault c k = none →
      let r := s.releaseLines c k
      exec (.fence op) s = .next (if r.2 then r.1.block true s.qLimit codeQSTALL 7 else r.1.invalidateClean c) ∧
      exec (.xdfence op) s = .next (if r.2 then r.1.block false s.qLimit codeQSTALL 7 else (r.1.invalidateClean c).modCore c fun x => x.fenceOld s.iss.thr)) ∧
    (m ≠ 0 → s.marksOf = [] → op.x12.getLsbD 4 = false →
      ((queueSet m).all fun q => decide ((x.queue q).length < q.size)) = true →
      exec (.xfence op) s = .next (s.placeMarkers c s.iss.thr m).2) ∧
    (m ≠ 0 → s.marksOf = [] → op.x12.getLsbD 4 = true → ((queueSet m).all fun q => (x.queue q).isEmpty) = true → exec (.xfence op) s = .next s) ∧
    (m ≠ 0 → s.marksOf ≠ [] → exec (.xfence op) s =
      .next (if x.standing s.marksOf then s.block false s.qLimit codeQSTALL 7 else s.setMarks c s.iss.thr [])) ∧
    exec (.drain op) s = .next (if x.owes s.iss.thr then s.block false s.qLimit codeQSTALL 7 else s) ∧
    exec (.pfence op) s = .next (if x.owes s.iss.thr || x.durUntil.any (fun d => d.1 == s.iss.thr && decide (s.cycle < d.2))
      then s.block false s.qLimit codeQSTALL 7 else s)

/-- The operations of the injection buffer (R218, R235 to R239, R245, R247): with their operands legal and a place free they stand in
the buffer with what the bundle reads and set out for their home: at once where it is the own vault, else as one packet, of a primary when the
core's injection slot is free, of a scavenger behind the packets of its class that wait for the slot (R396); a full buffer denies them. A
launch goes to the Roundhouse of the die of its first core. The slot also stands aside for the periodic report of R429 (log 106). -/
def Obligations.InjectionOperations : Prop :=
  ∀ (op : Op) (s : State), s.runs op = true →
    let c := s.iss.core
    let v := fun (k : PKind) => s.pendOf op k
    let a := (v .ratom).a
    let b := (v .ratom).b
    let g := (v .ratom).c
    let n := eszWidth op.esz / 8
    let cas := op.modifier = 10
    let due := fun (t : State) (what : Instr) (p : Pend) (d : Nat) =>
      ∃ it ∈ t.agenda, it.what = what ∧ it.arg.core = c ∧ it.arg.id = p.id ∧ it.due = s.cycle + d
    let packet := fun (what : Instr) (way : Nat) (t : State) (p : Pend) =>
      (s.iss.thr = .prim → due t what p (s.slotWait c + way)) ∧
      (s.iss.thr ≠ .prim → ∃ q, (t.core c).slotQ = (s.core c).slotQ ++ [q] ∧ q.count = 1 ∧ q.way = way ∧ q.what = what ∧
        q.arg.core = c ∧ q.arg.id = p.id)
    let home := fun (what : Instr) (t : State) (p : Pend) => ∀ h, s.homeOf c a.toNat = some h →
      if s.wayTo c a.toNat h = 0 then due t what p (readTerm h - 1) else packet what (s.wayTo c a.toNat h) t p
    let travels := fun (i : Instr) (P : Pend → Prop) (sets : State → Pend → Prop) =>
      ((s.core c).inj.length < 16 → ∃ (t : State) (p : Pend), exec i s = .next t ∧ P p ∧ p.id = (s.core c).nextId ∧ p.a = a ∧ p.tag = op.dst.toNat ∧
        (t.core c).inj = (s.core c).inj ++ [p] ∧ t.mem = s.mem ∧ sets t p) ∧
      (16 ≤ (s.core c).inj.length → exec i s = .next (s.denied 5))
    (a.toNat % n = 0 → s.gloBad atomDoms false a n = none → s.gloBad atomDoms true a n = none →
      (op.x12.getLsbD 4 = false → g.toNat % 8 = 0 ∧ s.locBad true g 8 = none) → (cas → s.locBad false g n = none) →
      travels (.ratom op) (fun p => p.kind = .ratom ∧ p.ws = [b, if cas then s.localWord g.toNat else 0]) (home .ratomAtHome)) ∧
    (a.toNat % 32 = 0 → s.gloBad atomDoms false a 32 = none → s.gloBad atomDoms true a 8 = none →
      travels (.decr op) (fun p => p.kind = .decr ∧ p.ws = [if op.b = 0 && !op.lb then 1 else b]) (home .decrAtHome)) ∧
    (a.toNat % 8 = 0 → g.toNat % 8 = 0 → s.gloBad [0, 1] false a 8 = none → s.gloBad [0, 1] true a 8 = none → s.locBad true g 8 = none →
      travels (.rldf op) (fun p => p.kind = .rldf ∧ p.bound = s.feLimit) (home .fullEmptyRemoteArrival)) ∧
    (a.toNat % 8 = 0 → s.gloBad [0, 1] false a 8 = none → s.gloBad [0, 1] true a 8 = none →
      travels (.rstf op) (fun p => p.kind = .rstf ∧ p.ws = [b] ∧ p.bound = s.feLimit) (home .fullEmptyRemoteArrival)) ∧
    (let ws := (List.range 8).map fun i => s.localWord (a.toNat + 8 * i)
     let madr := (ws[5]?).getD 0
     let maskOk := madr.toNat % 8 == 0 && (s.locBad false madr 128).isNone
     let mask := (List.range 16).map fun i => if maskOk then s.localWord (madr.toNat + 8 * i) else 0
     let cores := (descCores ws maskOk (bytesToNat (mask.flatMap fun w => natToBytes 8 w.toNat))).getD 0
     a.toNat % 64 = 0 → s.locBad false a 64 = none → s.locBad true (a + 0x38) 8 = none →
      travels (.launch op) (fun p => p.kind = .launch ∧ p.ws = ws ++ [if maskOk then 1 else 0] ++ mask)
        (packet .launchAllocation (s.toRoundhouse c (firstDie cores)))) ∧
    (a.toNat < (levelOf (op.xbits 0 2)).ids →
      travels (.cancel op) (fun p => p.kind = .cancel) (packet .cancelApply (s.toRoundhouse c (dieOfRec (levelOf (op.xbits 0 2)) a.toNat))))

/-- Messages, spawns and counter waits (R236, R239, R246, R297, R302, R396, R479, R491): `SEND` puts a message with its arguments on its way to
the core that its target names, a primary's when the injection slot is free and a scavenger's behind the packets that wait for it, or holds it
behind one of the thread's that was refused (R297); `SPAWN` pushes one into the tile's deque, those of one cycle by rising core (R302; log 128
says how a deque with few places keeps that order), and a full deque denies it; `CNTW` gives the outcome of a counter that has become zero
once its one-way term to the core has passed, and waits until then. -/
def Obligations.MessagesAndCounters : Prop :=
  ∀ (op : Op) (s : State), s.runs op = true →
    let c := s.iss.core
    let k := op.xbits 0 3
    let a := s.valS op.a op.la
    let b := s.valS op.b op.lb
    let dest := Word.bits a 0 10
    let tile := s.tileOf c
    let ready := b.toNat % 8 = 0 ∧ s.locBad false b (8 * k) = none ∧ Word.bits a 28 36 = 0
    let args := fun (m : Msg) => m.target = a ∧ ∀ i : Fin 4, m.args[i.val] = if i.val < k then s.localWord (b.toNat + 8 * i.val) else 0
    let l := levelOf (op.xbits 0 2)
    let free := ∀ q ∈ (s.core c).inj, q.thr = s.iss.thr → ∀ n, q.mail = some n → n.ni = .core c → n.msg.dest = coreOfNat dest →
      n.refused = false ∧ n.held = false
    (ready → isCore dest = true → (s.core c).inj.length < 16 → (∀ q ∈ (s.core c).inj, q.id < (s.core c).nextId) →
      ∃ (t : State) (m : Msg), exec (.send op) s = .next t ∧ args m ∧ m.thr = s.iss.thr ∧
        m.src = BitVec.ofNat 10 c.val ∧ (t.core c).inj.length = (s.core c).inj.length + 1 ∧ t.mem = s.mem ∧
        (free → s.iss.thr = .prim → ∃ it ∈ t.agenda, it.what = .messageArrival ∧ it.arg.core = coreOfNat dest ∧ it.arg.load = .msg m ∧
          it.due = s.cycle + (s.slotWait c + max 1 (s.oneWay c (coreOfNat dest)))) ∧
        (free → s.iss.thr ≠ .prim → ∃ q, (t.core c).slotQ = (s.core c).slotQ ++ [q] ∧ q.count = 1 ∧
          q.way = max 1 (s.oneWay c (coreOfNat dest)) ∧ q.what = .messageArrival ∧ q.arg.core = coreOfNat dest ∧ q.arg.load = .msg m) ∧
        (¬free → t.agenda = s.agenda ∧ ∃ q ∈ (t.core c).inj, ∃ n, q.mail = some n ∧ n.msg = m ∧ n.held = true)) ∧
    let full := 64 ≤ (s.tile tile).deque.length ∨ 40 ≤ (s.tile tile).deque.length ∧ 64 ≤ (s.tile tile).deque.length + s.spawnsAhead c
    (ready → dest = 0 → full → exec (.spawn op) s = .next (s.denied 6)) ∧
    (ready → dest = 0 → ¬full → ∃ (t : State) (m : Msg) (l r : List (Nat × Msg)), exec (.spawn op) s = .next t ∧
      args m ∧ m.orig = 2 ∧ m.src = BitVec.ofNat 10 c.val ∧ t.mem = s.mem ∧
      (s.tile tile).deque = l ++ r ∧ (t.tile tile).deque = l ++ (s.cycle, m) :: r ∧
      (∀ q ∈ l, ¬(q.1 = s.cycle ∧ m.src.toNat < q.2.src.toNat)) ∧ ∀ q, r.head? = some q → q.1 = s.cycle ∧ m.src.toNat < q.2.src.toNat) ∧
    (a.toNat < l.ids →
      (s.wrec l a.toNat = none → exec (.cntw op) s = .next (s.putS op 1 0 0)) ∧
      (∀ r, s.wrec l a.toNat = some r → r.done = true → r.doneAt + s.toRoundhouse c (dieOfRec l a.toNat) ≤ s.cycle → exec (.cntw op) s = .next (s.putS op 1 0 (BitVec.ofNat 64 r.outcome))) ∧
      ∀ r, s.wrec l a.toNat = some r → (r.done = false ∨ s.cycle < r.doneAt + s.toRoundhouse c (dieOfRec l a.toNat)) → exec (.cntw op) s = .next (s.block false s.qLimit codeQSTALL 7))

/-- Neighbour ports (R240 to R242, R443 to R445): on a direction with a neighbour, `PUSH` takes a credit and sends the value of its field `a`,
a primary's vector or a scavenger's doubleword, which can be popped at the neighbour after the delivery latency; `POP` gives the head of its
queue and returns the credit; without a credit, or a value that they pop, both wait; `PUSHT` and `POPT` say in a predicate whether they did. An open direction is `NOPORT`. Taking a value: the head leaves the queue,
and one credit travels back to the neighbour that pushed. -/
def Obligations.NeighbourPorts : Prop :=
  (∀ (op : Op) (s : State) (d : CoreId) (lat : Nat), s.holds op = true →
    let c := s.iss.core
    let t := s.iss.thr
    let dir := op.xbits 0 2
    let pops := ∀ e ∈ popDirs op, (s.neighbour c e).isSome = true ∧ (popDirs op).count e ≤ s.queued c t e
    let rdest := BitVec.ofNat 6 (op.xbits 4 5)
    (s.neighbour c dir = none → ∀ i ∈ [Instr.push op, .pop op, .pusht op, .popt op], exec i s = .next (s.raise codeNOPORT 0 (BitVec.ofNat 64 dir) 0)) ∧
    (s.neighbour c dir = some d → s.portLat c dir = some lat →
      (pops → 0 < s.credit c t dir → ∃ u : State, exec (.push op) s = .next u ∧ exec (.pusht op) s = .next (u.putP op.dst 0 true) ∧
        (dir < 4 → u.credit c t dir = s.credit c t dir - 1) ∧ u.mem = s.mem ∧
        ∃ it ∈ u.agenda, it.what = .portValueArrival ∧ it.arg.core = d ∧ it.arg.thr = t ∧ it.arg.k = opposite dir ∧ it.due = s.cycle + lat ∧
          (t = .prim → it.arg.load = .vec (s.srcV op.a op.la op.xa 64).1) ∧ (t ≠ .prim → it.arg.dw = (s.srcS op.a op.la).1)) ∧
      (pops → s.credit c t dir = 0 →
        exec (.push op) s = .next (s.block false s.qLimit codePORTSTALL dir) ∧ exec (.pusht op) s = .next (s.putP op.dst 0 false)) ∧
      ((∀ e ∈ popDirs op, (s.neighbour c e).isSome = true) → (∃ e ∈ popDirs op, s.queued c t e = 0) →
        (∃ e ∈ popDirs op, exec (.push op) s = .next (s.block false s.qLimit codePORTSTALL e)) ∧ exec (.pusht op) s = .next (s.putP op.dst 0 false)) ∧
      (s.queued c t dir = 0 →
        exec (.pop op) s = .next (s.block false s.qLimit codePORTSTALL dir) ∧ exec (.popt op) s = .next (s.putP rdest 0 false)) ∧
      (0 < s.queued c t dir → ∃ u : State, exec (.pop op) s = .next u ∧ exec (.popt op) s = .next (u.putP rdest 0 true) ∧
        (t = .prim → u = (s.popPrim c dir).2.putV op 2 0 (s.popPrim c dir).1) ∧
        (∀ k, t = .scav k → u = (s.popScav c k dir).2.putH k op.dst (s.popScav c k dir).1 0)))) ∧
  (∀ (s : State) (c d : CoreId) (dir lat : Nat) (v : Vec) (r : List Vec), dir < 4 → s.neighbour c dir = some d → s.portLat c dir = some lat →
    vget (s.prim c).portq dir = v :: r →
    let u := (s.popPrim c dir).2
    (s.popPrim c dir).1 = v ∧ vget (u.prim c).portq dir = r ∧ (∀ e, e < 4 → e ≠ dir → vget (u.prim c).portq e = vget (s.prim c).portq e) ∧
    (u.prim c).regs = (s.prim c).regs ∧ u.mem = s.mem ∧
    ∃ it ∈ u.agenda, it.what = .portCreditReturn ∧ it.arg.core = d ∧ it.arg.k = opposite dir ∧ it.due = s.cycle + lat)

/-- Tags (R215, R244): with a legal mask, `TWAITA` goes on when every masked tag is ready, `TWAITY` gives the lowest ready one and waits
while there is none, `TFIND` gives it or the number of tags, and `TCLR` clears each masked tag without outstanding operations; an operation
that completes in its cycle completes after it. -/
def Obligations.TagOperations : Prop :=
  ∀ (op : Op) (s : State), s.runs op = true →
    let m := s.valS op.a op.la
    let ready := fun (i : Nat) => m.getLsbD i && ((s.tagsOf[i]?).map Tag.ready).getD false
    let n := s.tagsOf.length
    let wait := Host.Outcome.next (s.block false s.qLimit codeQSTALL 7)
    s.maskBad m = false →
    ((∀ i, i < n → m.getLsbD i = true → ready i = true) → exec (.twaita op) s = .next s) ∧
    ((∃ i, i < n ∧ m.getLsbD i = true ∧ ready i = false) → exec (.twaita op) s = wait) ∧
    (∀ i, i < n → ready i = true → (∀ j, j < i → ready j = false) → m ≠ 0 →
      exec (.twaity op) s = .next (s.putS op 1 0 (BitVec.ofNat 64 i)) ∧ exec (.tfind op) s = .next (s.putS op 1 0 (BitVec.ofNat 64 i))) ∧
    ((∀ i, i < n → ready i = false) →
      (m ≠ 0 → exec (.twaity op) s = wait) ∧ exec (.tfind op) s = .next (s.putS op 1 0 (BitVec.ofNat 64 n))) ∧
    ∃ t : State, exec (.tclr op) s = .next t ∧ t.mem = s.mem ∧
      ∀ i, i < n → (match s.iss.thr with | .prim => (t.prim s.iss.core).tags.toList | .scav k => (t.scav s.iss.core k).tags.toList)[i]? =
        (s.tagsOf[i]?).map fun g => if m.getLsbD i then g.clearIdle s.cycle else g

/-! ## Pager, scavengers, supervisor -/

/-- The pager operations (R248 to R262): with their operands legal and a place free in `Q.KV` they enter it with what the bundle reads. -/
def Obligations.PagerOperations : Prop :=
  ∀ (op : Op) (s : State), s.runs op = true → (s.core s.iss.core).qkv.length < 8 →
    let v := fun (k : PKind) => s.pendOf op k
    let a := (v .kvrel).a
    let b := (v .kvrel).b
    let g := (v .kvrel).c
    let desc := firstBad (s.descBad a) = none
    let sweep := op.x12.getLsbD 0
    (∀ q ∈ [(Instr.kvmatch op, PKind.kvmatch), (.kvins op, .kvins)],
      Word.bits g 21 3 = 0 → Word.bits g 48 16 = 0 → desc → b.toNat % 8 = 0 → (g &&& 0x1FFFFF).toNat % 4 = 0 → s.locBad true b 8 = none →
      s.locBad false (g &&& 0x1FFFFF) (4 * Word.bits g 24 24) = none → exec q.1 s = .next (s.enterQ .kv (v q.2))) ∧
    (b.toNat ≤ 4096 → g.toNat % 8 = 0 → desc → s.locBad true g (8 * b.toNat) = none → exec (.kvapp op) s = .next (s.enterQ .kv (v .kvapp))) ∧
    (desc → exec (.kvrel op) s = .next (s.enterQ .kv (v .kvrel))) ∧
    (Word.bits b 48 16 = 0 → desc → exec (.kvpin op) s = .next (s.enterQ .kv (v .kvpin))) ∧
    ∀ q ∈ [(Instr.kvdem op, PKind.kvdem), (.kvprom op, .kvprom)],
      Word.bits a 28 36 = 0 → (sweep = true → Word.bits a 0 24 ≠ 0) → (sweep = false → b = 0) → g.toNat % 8 = 0 → s.locBad true g 8 = none →
      exec q.1 s = .next (s.enterQ .kv (v q.2))

/-- A scavenger's own operations (R266 to R268): `WAITW` makes the thread wait, its resume address to be stored in its workspace, and frees
its slot of its channel; `YIELD` makes it not ready for as many turns as its operand says; `SETWP` stores the next address in the old
workspace and takes the new one's. And `PCKPT` begins a checkpoint of its core after the bundle (R263). -/
def Obligations.ScavengerManagement : Prop :=
  ∀ (op : Op) (s : State), s.runs op = true →
    let c := s.iss.core
    (∀ k, s.iss.thr = .scav k →
      let x := s.srcS op.a op.la
      (∃ t : State, exec (.waitw op) s = .next t ∧ (t.scav c k).st = .waiting ∧ (t.scav c k).chan = none ∧
        t.iss.dests = [.reg ((s.scav c k).wp.toNat + 0x100) s.iss.next 0] ∧ (∀ j, j ≠ k → t.scav c j = s.scav c j) ∧ t.mem = s.mem) ∧
      (op.x12 ≠ 0 → ∃ t : State, exec (.yield op) s = .next t ∧ (t.scav c k).st = .yielding op.x12.toNat ∧ t.mem = s.mem) ∧
      (op.x12 = 0 → exec (.yield op) s = .next s) ∧
      (s.wpBad c (.scav k) x.1 = none → ∃ t : State, exec (.setwp op) s = .next t ∧ t.iss.dests = [.pc x.1] ∧
        (s.memWf = true → (s.scav c k).wp.toNat % 8 = 0 →
          BitVec.ofNat 64 (t.readProgNat c (s.sbt c) ((s.scav c k).wp.toNat + 0x100) 8) = s.iss.next)) ∧
      (∀ f, s.wpBad c (.scav k) x.1 = some f → exec (.setwp op) s = .next (s.raise f.1 f.2.1 f.2.2 0))) ∧
    ∃ (t : State) (k : Ckpt), exec (.pckpt op) s = .next t ∧ (t.core c).ckpt = some k ∧ k.dst = op.dst ∧ k.heldAt = s.clock c + 1 ∧
      k.frozen = false ∧ (t.prim c).mode = .checkpoint ∧ (t.prim c).regs = (s.prim c).regs ∧ t.mem = s.mem

/-- The supervisor's operations (R218, R248, R250, R269 to R273, R396): each is `PROT` with sub-cause 6 outside a supervisor's primary and for a thread
that is not halted with a notice that has come; an operand outside the limits of R250 is refused before the privilege and the thread's state.
Each of them takes a place in the injection buffer and the injection slot. A read of `SVWIN` sets out when its bundle is first held, and gives
the doubleword once its round trip has passed, in cycles of its core's clock; a write is posted and reaches the thread after its way, or waits
for a busy block-table entry; `SVRES` reaches it after the same way with its mode; `XLINV` completes when the farthest translation buffer of
the package has answered. A read is known again by its operands (log 132). -/
def Obligations.SupervisorOperations : Prop :=
  (∀ (op : Op) (s : State), s.runs op = true →
    let all := op.x12.getLsbD 0
    let a := (s.pendOf op .xlinv).a
    let b := (s.pendOf op .xlinv).b
    (all = true → a = 0 ∧ b = 0) → (all = false → Word.bits b 2 62 = 0 ∧ s.gloBad [2, 3, 4, 5, 6, 8] false a 8 = none) →
    (s.privileged = false → exec (.xlinv op) s = .next (s.raise codePROT 6 0 0)) ∧
    (s.privileged = true → 16 ≤ (s.core s.iss.core).inj.length → exec (.xlinv op) s = .next (s.denied 5)) ∧
    (s.privileged = true → (s.core s.iss.core).inj.length < 16 → ∃ u : State, exec (.xlinv op) s = .next u ∧
      (u.core s.iss.core).inj.length = (s.core s.iss.core).inj.length + 1 ∧ u.mem = s.mem ∧
      ∃ it ∈ u.agenda, it.what = .engineOperationComplete ∧ it.arg.core = s.iss.core ∧ it.arg.id = (s.core s.iss.core).nextId ∧
        it.due = s.cycle + (s.slotWait s.iss.core + s.farthestBuffer s.iss.core))) ∧
  (∀ (s : State) (c : CoreId) (q : Nat × Word × Word), (s.core c).inj.length < 16 →
    let t := s.sendRead c q
    let d := s.seenWay c (s.slotWait c + 2 * q.1)
    ∃ p : Pend, (t.core c).inj = (s.core c).inj ++ [p] ∧ p.kind = .svres ∧ p.ws = [1] ∧ p.a = q.2.1 ∧ p.c = q.2.2 ∧ p.bound = s.clock c + d ∧
      t.mem = s.mem ∧ ∃ it ∈ t.agenda, it.what = .engineOperationComplete ∧ it.arg.core = c ∧ it.arg.id = p.id ∧ it.arg.k = 4 ∧
        it.due = s.meshAt c (s.clock c + d)) ∧
  (∀ (op : Op) (s : State), s.runs op = true → s.target (s.valS op.a op.la) = none →
    ∀ i ∈ [Instr.svwin op, .svres op], exec i s = .next (s.raise codeILLOP 0 s.issWords 0)) ∧
  ∀ (op : Op) (s : State) (c : CoreId) (t : Thr), s.runs op = true → s.target (s.valS op.a op.la) = some (c, t) →
    let sel := s.valS op.c op.lc
    let wr := op.x12.getLsbD 0
    let way := s.oneWay s.iss.core c
    let x := s.valS op.b op.lb
    let wait := Host.Outcome.next (s.block false s.qLimit codeQSTALL 7)
    let room := (s.core s.iss.core).inj.length < 16
    let due := fun (u : State) (k : Nat) (stamp : Word) (l : Payload) =>
      ∃ it ∈ u.agenda, it.what = .contextResume ∧ it.arg.core = c ∧ it.arg.thr = t ∧ it.arg.k = k ∧ it.arg.dw = stamp ∧ it.arg.load = l ∧
        it.due = s.cycle + (s.slotWait s.iss.core + way)
    let enters := fun (u : State) => (u.core s.iss.core).inj.length = (s.core s.iss.core).inj.length + 1 ∧ u.mem = s.mem
    let out := (s.core s.iss.core).inj.find? fun p => p.kind == .svres && p.ws == [1] && p.a == s.valS op.a op.la && p.c == sel
    let legal := selOk t wr sel = true ∧ (wr = true → s.windowBad c sel x = none)
    (selOk t wr sel = false → exec (.svwin op) s = .next (s.raise codeILLOP 0 s.issWords 0)) ∧
    (selOk t wr sel = true → wr = true → ∀ b, s.windowBad c sel x = some b → exec (.svwin op) s = .next (s.raise b.1 0 b.2 0)) ∧
    ((s.privileged = false ∨ s.openFault c t = none) → (legal → exec (.svwin op) s = .next (s.raise codePROT 6 0 0)) ∧
      exec (.svres op) s = .next (s.raise codePROT 6 0 0)) ∧
    ∀ r, s.privileged = true → s.openFault c t = some r →
      (legal → wr = false →
        (out = none → ¬room → exec (.svwin op) s = .next (s.denied 5)) ∧
        (out = none → room → exec (.svwin op) s = .next
          (State.block { s with iss := { s.iss with sends := some (way, s.valS op.a op.la, sel) } } false s.qLimit codeQSTALL 7)) ∧
        ∀ p, out = some p → exec (.svwin op) s =
          if s.clock s.iss.core < p.bound then wait else .next (s.putS op 1 0 (s.windowRead c t r sel))) ∧
      (legal → wr = true →
        (s.windowBusy c sel = true → exec (.svwin op) s = wait) ∧
        (s.windowBusy c sel = false → ¬room → exec (.svwin op) s = .next (s.denied 5)) ∧
        (s.windowBusy c sel = false → room → ∃ u : State, exec (.svwin op) s = .next u ∧ enters u ∧ due u 6 r.stamp (.words [sel, x]))) ∧
      (¬room → exec (.svres op) s = .next (s.denied 5)) ∧
      (room → ∃ u : State, exec (.svres op) s = .next u ∧ enters u ∧ due u (2 + op.xbits 0 2) r.stamp .none)

/-! ## The machine's own steps -/

/-- The steps of a primary's issue (R17, R29, R47, R68): while it may issue, its tile has its supply, no capture is due and the bundle
at its program counter has no encoding fault, each of them fetches that bundle and begins to perform its operations; control registers
that the bundle finds written have taken their writes (R131). -/
def Obligations.IssueEvents : Prop :=
  ∀ s : State, s.evt.thr = .prim →
    let c := s.evt.core
    let p := s.prim c
    let f := (s.core c).fetchBundle .prim p.pc p.entryFrom p.omitAt
    let v := (s.stopTicks c).modPrim c fun p => { p with mode := .running, owesDrain := false }
    (p.mode = .running ∨ p.mode = .drain) → (s.tile (s.tileOf c)).supply = .on → v.captureDue c = none → p.replay = 0 → f.fault = none →
    ∀ i ∈ [Instr.bundleFetch, .drainWaitEnd, .blockingPointRelease, .qstall, .fewait, .portstall],
      ∃ t, exec i s = .next t ∧ t.iss.live = true ∧ t.iss.core = c ∧ t.iss.thr = .prim ∧ t.iss.baddr = p.pc ∧ t.iss.next = f.next ∧
        (∀ o, o.slot < 10 → (o ∈ t.iss.ops ↔ o ∈ f.ops)) ∧ (t.prim c).regs = p.regs ∧ t.mem = (v.landCtlNow c).mem

/-- The steps of a scavenger's issue (R31, R34 to R38, R47, R150, R267, R444): an owned turn opens the window of the next operation in a slot
that the primary leaves empty, for one power token; each access of the window takes a free port of its bank in a cycle of its own; a wait
whose bound has run out while its condition fails halts the thread with the wait's code, `FEWAIT` of a full-empty access and `PORTSTALL` of a
pop among them, and one whose condition holds goes on waiting for its port; a long result becomes the window's destination access; turns that
were skipped end; a change of `WP` waiting takes the turn. Tokens are taken at the turn (log 78); the accesses of a window are those of log 81. -/
def Obligations.ScavengerEvents : Prop :=
  ∀ (s : State) (k : Fin 8), s.evt.thr = .scav k →
    let c := s.evt.core
    let x := s.scav c k
    let f := (s.core c).fetchBundle (.scav k) x.pc x.entryFrom x.omitAt
    let tile := s.tileOf c
    let due := fun (t : State) (what : Instr) (n : Nat) =>
      ∃ it ∈ t.agenda, it.what = what ∧ it.arg.core = c ∧ it.arg.thr = .scav k ∧ it.due = s.meshAt c (s.clock c + n)
    let halted := fun (t : State) (code : BitVec 8) (info : Nat) => (t.scav c k).st = .halted ∧
      ∃ r, (t.scav c k).fault = some r ∧ r.code = code ∧ r.info = BitVec.ofNat 64 info
    (∀ o n, x.st = .ready → x.win = none → (s.core c).frozen = false → x.pendWp = none → f.fault = none → f.ops = [o] →
      ((scavSlots o.instr).find? fun n => s.emptySlot c n) = some n → (s.tile tile).tokens ≠ 0 →
      (injects o.instr = true → (s.core c).slotUntil ≤ s.cycle) →
      ∃ t w, exec .barrelTurn s = .next t ∧ (t.scav c k).win = some w ∧ w.op = some { o with slot := n } ∧ w.next = f.next ∧ w.done = false ∧
        (t.tile tile).tokens = (s.tile tile).tokens - 1 ∧ due t .barrelTurn 8 ∧ t.mem = s.mem) ∧
    (∀ w p v flg u, x.win = some w → w.done = true → w.op.isSome = true → w.dests = [.reg p v flg] → s.memWf = true → p % 8 = 0 →
      s.takePort c p = some u →
      ∀ i ∈ [Instr.scavengerAccessRetry, .fewait, .portstall], ∃ t, exec i s = .next t ∧ t.readProgNat c (s.sbt c) p 8 = v.toNat ∧
        (t.scav c k).win = none ∧ (t.scav c k).st = w.after.settled ∧ (t.scav c k).fpstat = x.fpstat ||| flg ∧ (t.scav c k).pc = x.pc) ∧
    (∀ w o r r' l u, x.win = some w → w.done = false → w.op = some o → w.todo = r :: r' :: l → w.last < s.clock c →
      s.takePort c (hAddr x.wp r) = some u →
      ∃ t w', exec .scavengerAccessRetry s = .next t ∧ (t.scav c k).win = some w' ∧ w'.todo = r' :: l ∧ w'.got = w.got ++ [(r, s.rdH c k r)] ∧
        due t .scavengerAccessRetry 1 ∧ t.mem = s.mem) ∧
    (∀ h, x.st = .ready → x.win = none → x.wait = some h → h.since = s.evt.n →
      ∃ t, exec .qstall s = .next t ∧ halted t h.code h.info ∧ (∀ j, j ≠ k → t.scav c j = s.scav c j) ∧ t.prim c = s.prim c) ∧
    (∀ w o op h, x.win = some w → w.done = false → w.late = true → w.op = some o → w.todo = [] → o.instr.op? = some op → w.last < s.clock c →
      x.wait = some h → h.code ≠ 0 → h.since + h.bound ≤ s.clock c →
      let u := s.performWin c k w o true
      (∀ a, u.memAccess k o.instr op w.extra = some (some a) → s.pushWaits c k o.instr = false → s.takePort c a = none → u.bitRight o.instr = true →
        ∀ i ∈ [Instr.qstall, .fewait, .portstall, .scavengerAccessRetry], ∃ t, exec i s = .next t ∧ t.scav c k = x ∧
          due t .scavengerAccessRetry 1 ∧ t.mem = s.mem) ∧
      (∀ a, u.memAccess k o.instr op w.extra = some (some a) → s.pushWaits c k o.instr = false → s.takePort c a = none → u.bitRight o.instr = false →
        ∀ i ∈ [Instr.qstall, .fewait, .portstall, .scavengerAccessRetry], ∃ t, exec i s = .next t ∧ halted t h.code h.info ∧
          (∀ j, j ≠ k → t.scav c j = s.scav c j) ∧ t.prim c = s.prim c ∧ t.mem = s.mem) ∧
      (o.instr = .ldf op → popDirs op = [] → w.extra = 0 → (s.takePort c (u.ea op).toNat).isSome = true → (u.ea op).toNat < 2 ^ 21 →
        u.accessBad true false false 8 [(0, u.ea op)] = none → u.isFull (u.keyOf (u.ea op).toNat) = false →
        ∃ v y, exec .fewait s = .next v ∧ exec (.ldf op) v = .next y ∧ halted (State.endIssue v y) codeFEWAIT (u.ea op).toNat ∧ y.mem = s.mem) ∧
      (o.instr = .pop op → (s.neighbour c (op.xbits 0 2)).isSome = true → s.queued c (.scav k) (op.xbits 0 2) = 0 →
        ∃ v y, exec .portstall s = .next v ∧ exec (.pop op) v = .next y ∧ halted (State.endIssue v y) codePORTSTALL (op.xbits 0 2) ∧ y.mem = s.mem)) ∧
    (∀ w, x.win = some w → s.evt.k < 64 → ∃ t w', exec .scavengerLongResult s = .next t ∧ (t.scav c k).win = some w' ∧
      w'.dests = [.reg (hAddr x.wp (BitVec.ofNat 6 s.evt.k)) s.evt.dw (BitVec.ofNat 6 s.evt.id)] ∧
      due t .scavengerAccessRetry 0) ∧
    (∀ i ∈ [Instr.normaliserForfeitEnd, .yieldEnd], (x.st = .yielding 0 ∨ x.st = .forfeit 0) →
      ∃ t, exec i s = .next t ∧ t.scav c k = { x with st := .ready } ∧ (∀ j, j ≠ k → t.scav c j = s.scav c j) ∧ t.prim c = s.prim c ∧ t.mem = s.mem) ∧
    ∀ v, x.pendWp = some v → x.win = none → (s.core c).frozen = false → (∀ m, x.st ≠ .notReady m) →
      ∃ t w, exec .wpSwitch s = .next t ∧ (t.scav c k).win = some w ∧ w.op = none ∧ w.after = x.st ∧ (t.scav c k).pendWp = some v ∧
        due t .scavengerAccessRetry 1 ∧ t.mem = s.mem

/-- Landings, cache lines, ports and messages as they come in (R21, R156, R157, R295 to R299, R324, R443, R446): a drain-wait cycle advances
the countdowns; a fill that has its bytes puts its line into the cache, unless a write-back of the line is in flight, for every thread or for
those that waited before an acquire (log 108); an acknowledged write-back leaves the network side, and an uncached access takes its answer
(log 63); a pushed value joins its queue and a credit its count; a message that its channel admits enters the ring; a refused one is sent again
16 cycles of its core's clock later, or held behind an earlier one, until it is accepted (log 76); the dispenser hands a core of its tile one
message in a cycle; a delivery performs its further writes, and a channel entry takes a legal value. -/
def Obligations.ArrivalEvents : Prop :=
  ∀ s : State,
    let e := s.evt
    let c := e.core
    ((s.prim c).waitsDraining = true → ∃ t, exec .resultLanding s = .next t ∧ (t.prim c).regs = ((s.tick c).prim c).regs ∧
      (t.prim c).flight = ((s.tick c).prim c).flight ∧ (t.prim c).fpstat = ((s.tick c).prim c).fpstat) ∧
    (∀ p, (s.core c).net e.id = some p → p.performed = true →
      (e.thr = .prim → e.k ≠ 6 → p.err = false → (∀ q ∈ (s.core c).qnet, q.kind = .writeBack → q.a ≠ p.a) → (∀ l, (s.core c).line p.a.toNat = some l → l.dirty = 0) → (p.writing = true → p.c.setWidth 8 ≠ 0#8) →
        ∃ t, exec .scavengerCacheFill s = .next t ∧ (t.core c).line p.a.toNat =
          some { addr := p.a.toNat, data := BitVec.ofNat 256 (bytesToNat p.data), dirty := 0, writers := 0,
                 readers := if p.writing then some (p.c.setWidth 8) else none } ∧ t.mem = s.mem) ∧
      ∃ t, exec .scavengerCacheWritebackAck s = .next t ∧ (t.core c).net e.id = none ∧ (t.core c).cache = (s.core c).cache ∧ t.mem = s.mem) ∧
    (∀ k, e.thr = .scav k → (e.n = 1 ∨ e.n = 2) → ∃ t, exec .scavengerCacheFill s = .next t ∧ t.mem = s.mem ∧
      (t.scav c k).ask = (s.scav c k).ask.map fun _ => some (if e.n = 1 then some e.dw else none)) ∧
    (s.putOff c false .portValueArrival = none → e.k < 4 →
      (∀ v, e.thr = .prim → e.load = .vec v → ∃ t, exec .portValueArrival s = .next t ∧
        vget (t.prim c).portq e.k = vget (s.prim c).portq e.k ++ [v] ∧ ∀ d, d < 4 → d ≠ e.k → vget (t.prim c).portq d = vget (s.prim c).portq d) ∧
      ∀ k, e.thr = .scav k → e.load = .none → ∃ t, exec .portValueArrival s = .next t ∧
        vget (t.scav c k).portq e.k = vget (s.scav c k).portq e.k ++ [e.dw]) ∧
    (e.k < 4 → ∃ t, exec .portCreditReturn s = .next t ∧ t.mem = s.mem ∧ (e.thr = .prim → vget (t.prim c).credits e.k = vget (s.prim c).credits e.k + 1) ∧
      ∀ k, e.thr = .scav k → vget (t.scav c k).credits e.k = vget (s.scav c k).credits e.k + 1) ∧
    (∃ t, exec .portqFlush s = .next t ∧ (e.thr = .prim → ∀ d, d < 4 → vget (t.prim c).portq d =
      if e.dw.getLsbD (16 * d + 15) then [] else vget (s.prim c).portq d)) ∧
    (∀ m, e.load = .msg m →
      (s.putOff c false .messageArrival = none → s.heldBack m = false → ((s.core c).chan m.chan).admits m = true → (s.core c).ring.length < 32 →
        ∃ t, exec .messageArrival s = .next t ∧ (t.core c).ring = (s.core c).ring ++ [(s.cycle, m)] ∧ t.mem = s.mem ∧
          ∃ it ∈ t.agenda, it.what = .dispatch ∧ it.arg.core = c) ∧
      ∀ q, m.orig.toNat < 3 → s.mailOf m.entry.1 m.entry.2 = some q →
        (e.k = 0 → ∃ t, exec .messageRefusalResend s = .next t ∧ t.mem = s.mem ∧ (t.mailOf m.entry.1 m.entry.2).map (fun r => r.2) =
          some { q.2 with refused := true } ∧ ∃ it ∈ t.agenda, it.what = .messageRefusalResend ∧ it.arg.k = 1 ∧
          it.due = s.meshAt m.entry.1 (s.clock m.entry.1 + 16)) ∧
        (e.k = 3 → ∃ t, exec .messageRefusalResend s = .next t ∧ t.mem = s.mem ∧ (t.mailOf m.entry.1 m.entry.2).map (fun r => r.2) =
          some { q.2 with refused := false, held := false }) ∧
        (e.k = 1 → (s.core m.entry.1).stays q.1.thr q.2 = true → ∃ t, exec .messageRefusalResend s = .next t ∧ t.agenda = s.agenda ∧
          (t.mailOf m.entry.1 m.entry.2).map (fun r => r.2) = some { q.2 with held := true }) ∧
        (e.k = 1 → (s.core m.entry.1).stays q.1.thr q.2 = false → ∃ t, exec .messageRefusalResend s = .next t ∧ t.mem = s.mem ∧
          let way := max 1 (s.mailWay q.2)
          let due := fun (n : Nat) => ∃ it ∈ t.agenda, it.what = .messageArrival ∧ it.arg.core = q.2.msg.dest ∧ it.arg.load = .msg q.2.msg ∧
            it.due = s.cycle + n
          match q.2.ni.face with
          | none => due way
          | some f => if q.2.msg.thr = .prim then due (s.slotWait f + way)
            else ∃ y, (t.core f).slotQ = (s.core f).slotQ ++ [y] ∧ y.count = 1 ∧ y.way = way ∧ y.what = .messageArrival ∧ y.arg.load = .msg q.2.msg)) ∧
    (∀ k p, c ∈ s.tileCores (s.tileOf c) → (s.tileCores (s.tileOf c)).Nodup →
      (∀ d ∈ s.tileCores (s.tileOf c), d ≠ c → s.pickThread d = none) → (s.core c).dispAt ≠ s.clock c + 1 → (s.core c).frozen = false →
      (s.tile (s.tileOf c)).supply = .on → s.pickThread c = some k → (s.core c).ringPick = some p → ((s.core c).chan p.2.chan).admits p.2 = true →
      ∃ t, exec .dispatch s = .next t ∧ (t.core c).ring = (s.core c).ring.erase p ∧ (t.core c).dispAt = s.clock c + 1 ∧ (t.scav c k).chan ≠ none) ∧
    (∀ k m u, e.thr = .scav k → e.load = .msg m → e.n = 5 → e.id % 8 = 0 → s.memWf = true → (s.core c).still = false → s.guardEnd c (s.sbt c) (e.id + 0x100) 8 = 0 →
      s.takePort c (e.id + 0x100) = some u →
      ∃ t, exec .deliveryComplete s = .next t ∧ (t.scav c k).st = .ready ∧ (t.scav c k).wp = BitVec.ofNat 64 e.id ∧ (t.scav c k).pc = e.dw ∧
        t.readProgNat c (s.sbt c) (e.id + 0x100) 8 = e.dw.toNat) ∧
    (e.n < 1024 → (e.n % 16 = 0 → ∃ t, exec .taskTableWrite s = .next t ∧ ((t.core c).chan (e.n / 16)).entry = BitVec.ofNat 64 (e.dw.toNat / 4 * 4)) ∧
      (e.n % 16 = 8 → (((s.core c).chan (e.n / 16)).withDw8 e.dw).legal = true →
        ∃ t, exec .taskTableWrite s = .next t ∧ (t.core c).chan (e.n / 16) = ((s.core c).chan (e.n / 16)).withDw8 e.dw))

/-- Launches, claims, bodies, cancels (R110, R289 to R292, R488 to R495). A claim takes the next coordinates by the guided rule. An offered
core that is free takes the task on and claims; the Roundhouse grants, and the core appends what it is granted; a body starts at the next
coordinate, unpacked, and the first of a task with the launch's code and zero registers. A unit's end lowers the count, and a record whose count
and hold are zero is complete in that cycle. A launch gets a record with its descriptor and the issuer's code (log 73), a cancel leaves only the
units that have begun, a hard one discards the unit at its core, and its acknowledgement lowers the count; a record of another level is
allocated by a write. What a unit does in the drain before its first body is the model's (log 24), as is the task that a core without room for a
capture leaves (log 123). -/
def Obligations.WorkEvents : Prop :=
  (∀ r : WRec, r.done = false → r.can = 0 → r.ret = [] → r.next < r.total →
    let rem := r.total - r.next
    let n := min rem (max r.minChunk ((rem + 2 * r.cores_ - 1) / (2 * r.cores_)))
    r.claim = ([(r.next, n)], { r with next := r.next + n })) ∧
  ∀ s : State,
    let e := s.evt
    let c := e.core
    let n := e.n
    let way := s.toRoundhouse c (dieOfRec .launch n)
    let sends := fun (t : State) (what : Instr) (due : Nat) => ∃ it ∈ t.agenda, it.what = what ∧ it.arg.core = c ∧ it.arg.n = n ∧ it.due = due
    (∀ r, s.putOff c false .launchOffer = none → e.k ≠ 1 → s.wrec .launch n = some r →
      (s.modCore c fun x => { x with offer := none }).coreFree c = true →
      ∃ t, exec .launchOffer s = .next t ∧ (t.core c).offer = none ∧ sends t .nestClaim (s.cycle + (s.slotWait c + (1 + way))) ∧ (t.prim c).task =
        some { launch := n, entry := r.entry, chunk := [], body := false, claiming := true, dry := false, begun := false }) ∧
    (∀ r, s.wrec .launch n = some r → ∃ t q, exec .nestClaim s = .next t ∧ t.wrec .launch n = some q ∧ q.next = r.claim.2.next ∧
      q.ret = r.claim.2.ret ∧ q.count = r.count ∧ ∃ it ∈ t.agenda, it.what = .claimResponse ∧ it.arg.core = c ∧ it.arg.n = n ∧
        it.arg.load = .grant r.claim.1 ∧ it.due = s.cycle + way) ∧
    (∀ g k, e.load = .grant g → (s.prim c).task = some k → k.launch = n → k.claiming = true → ∃ t, exec .claimResponse s = .next t ∧
      (t.prim c).task = some { k with claiming := false, dry := k.dry || g.isEmpty, chunk := k.chunk ++ g }) ∧
    (∀ k i rest r, ((s.prim c).mode = .entering ∨ (s.prim c).mode = .idle) → (s.prim c).task = some k → (k.begun = false ∨ s.wanted c = false) →
      grantPop k.chunk = some (i, rest) → s.wrec .launch k.launch = some r → ∃ t q, exec .bodyEntry s = .next t ∧ (t.prim c).pc = k.entry ∧
      (t.prim c).regs.ix = BitVec.ofNat 32 (i % r.nx) ∧ (t.prim c).regs.iy = BitVec.ofNat 32 (i / r.nx % r.ny) ∧
      (t.prim c).regs.iz = BitVec.ofNat 32 (i / (r.nx * r.ny)) ∧ (t.prim c).task = some q ∧ q.chunk = rest ∧ q.body = true ∧ q.begun = true ∧
      (k.begun = false → (t.core c).code = r.code ∧ ∀ j, (t.prim c).regs.rdS j = 0)) ∧
    (∀ r, s.wrec .launch n = some r →
      (1 < r.count → ∃ t, exec .unitEndReport s = .next t ∧
        t.wrec .launch n = some { r with count := r.count - 1, err := r.err || (e.k == 1) }) ∧
      (r.count = 1 → r.hold = false → r.done = false → r.nop = true → ∃ t, exec .unitEndReport s = .next t ∧
        t.wrec .launch n = some { r with count := 0, err := r.err || (e.k == 1), done := true, doneAt := s.cycle })) ∧
    (∀ p set id, (s.core c).pend e.id = some p →
      let maskOk := (p.ws[8]?).getD 0 != 0
      let mask := bytesToNat ((p.ws.drop 9).flatMap fun w => natToBytes 8 w.toNat)
      let d := firstDie ((descCores p.ws maskOk mask).getD 0)
      s.descOk (p.ws.take 8) maskOk mask = some set → s.freeLaunch d = some id →
      ∃ t r, exec .launchAllocation s = .next t ∧ t.wrec .launch id = some r ∧ r.done = false ∧ r.can = 0 ∧ r.next = 0 ∧ r.count = r.total ∧
        r.cores = set ∧ r.desc = p.ws.take 4 ∧ r.code = (s.core c).codeOf p.thr ∧ r.age = s.tsc ∧ ∃ it ∈ t.agenda, it.what = .engineOperationComplete ∧
        it.arg.core = c ∧ it.arg.id = p.id ∧ it.arg.k = 2 ∧ it.due = s.cycle + (s.toRoundhouse c d - 1)) ∧
    (∀ p r, (s.core c).pend e.id = some p → levelOf (Word.bits (p.x12.setWidth 64) 0 2) = .launch → p.x12.getLsbD 2 = false →
      s.wrec .launch p.a.toNat = some r → r.done = false → ∃ t q, exec .cancelApply s = .next t ∧ t.wrec .launch p.a.toNat = some q ∧
      q.can = (if r.can = 2 then 2 else 1) ∧ (r.can = 0 → q.ret = [] ∧ q.count = r.count - (r.total - r.next + grantLen r.ret))) ∧
    (∀ k, (s.tile (s.tileOf c)).supply = .on → (s.prim c).task = some k → k.launch = n → s.deferPreempt c = false →
      (∀ m ∈ (s.core c).qmx, s.clock c < m.start) → ∃ t, exec .hardCancelPreemption s = .next t ∧ (t.prim c).task = none ∧ (t.core c).qmx = [] ∧
      (t.prim c).flight = [] ∧ t.mem = s.mem ∧ ∃ it ∈ t.agenda, it.what = .hardCancelAck ∧ it.arg.core = c ∧ it.arg.n = n) ∧
    (∀ ref r, e.load = .cancel ref → s.wrec .launch n = some r → e.id < r.count → ∃ t q, exec .hardCancelAck s = .next t ∧
      t.wrec .launch n = some q ∧ q.count = r.count - e.id ∧ q.acks = r.acks.erase (c, ref) ∧ c ∉ q.running) ∧
    ∀ l, e.load = .level l → n = 0 → e.id < l.ids → s.wrec l e.id = none → e.dw.getLsbD 63 = true → l ≠ .launch →
      s.parentOk l (l == .job || e.dw.getLsbD 57) (Word.bits e.dw 32 10) = true →
      ∃ t r, exec .workRecordWrite s = .next t ∧ t.wrec l e.id = some r ∧ r.hold = e.dw.getLsbD 61 ∧ r.count = 0 ∧ r.done = false ∧ r.age = s.tsc

/-- Engine and injection-buffer operations at their homes and back (R142, R215 to R220, R235 to R238, R329 to R337, R396, R397): what an
operation owes to the local scratchpad is written in the cycle before it completes, and its completion frees its entry and counts its tag; a
home port begins one request in eight cycles, of the primary class and the oldest first; copies wait for their walks, are read and then
written, and their acknowledgements follow; remote atomics and counters perform at their homes, in their thread's order, and a counter's message
leaves the home's interface (log 122); full-empty accesses perform, park, are refused by a full table or run out of time; fault notices merge
at routers, and wakes free their entries and send accesses again or end them. A copy's bytes at several homes are read and written together
(log 101), and what a failed copy has written is a free value (logs 4, 121). -/
def Obligations.EngineEvents : Prop :=
  ∀ s : State,
    let e := s.evt
    let c := e.core
    let x := s.core c
    let due := fun (t : State) (what : Instr) (id n : Nat) => ∃ it ∈ t.agenda, it.what = what ∧ it.arg.core = c ∧ it.arg.id = id ∧ it.due = n
    let packet := fun (t : State) (th : Thr) (what : Instr) (id way : Nat) =>
      if th = .prim then due t what id (s.cycle + (s.slotWait c + way))
      else ∃ q, (t.core c).slotQ = (s.core c).slotQ ++ [q] ∧ q.count = 1 ∧ q.way = way ∧ q.what = what ∧ q.arg.core = c ∧ q.arg.id = id
    (∀ p, x.pend e.id = some p →
      let tag := fun (t : State) => match p.thr with | .prim => vget (t.prim c).tags p.tag | .scav k => vget (t.scav c k).tags p.tag
      let ends := fun (st : BitVec 2) => ∃ t, exec .engineOperationComplete s = .next t ∧ (t.core c).pend e.id = none ∧ t.mem = s.mem ∧
        (p.prot = false → p.tag < 64 → tag t = (tag s).complete st s.tsc s.cycle)
      let copies := p.kind ∈ [PKind.xcp, .xcp2, .xga, .xsc, .xkvg]
      let q := { p with waits := x.behind p.id }
      let next := fun (u : State) => Host.Outcome.next (u.afterSeen c p.issued 1 (argId c p.id))
      (e.k = 1 → ends (if e.n = 2 || p.err then 2 else p.okStatus)) ∧
      (e.k = 4 → ends 0) ∧
      (e.k = 0 → p.kind ≠ .xlinv → ends p.okStatus) ∧
      (e.k = 0 → p.kind = .xlinv → ends 0 ∧ (p.x12.getLsbD 0 = true → ∃ t, exec .engineOperationComplete s = .next t ∧
        (∀ d, (t.core d).tb = []) ∧ t.term.tb = [])) ∧
      (e.k = 2 → copies → p.performed = true → exec .engineOperationComplete s = next s) ∧
      (e.k = 2 → copies → p.performed = false → s.putOffAny (s.homesOf c (p.moves.flatMap Move.dsts)) true .engineOperationComplete = none →
        s.guardWait c p p.moves = 0 → exec .engineOperationComplete s = next (s.writeStage c q true).1) ∧
      (e.k = 2 → ¬copies → p.results = [] → exec .engineOperationComplete s = next s) ∧
      ∀ at_ bs, e.k = 2 → ¬copies → p.results = [(at_, bs)] → s.putOff c true .engineOperationComplete = none →
        s.guardEnd c p.sbt at_ bs.length = 0 → s.memWf = true → at_ % 8 = 0 → bs.length = 8 →
        ∃ t, exec .engineOperationComplete s = .next t ∧ t.readProg c p.sbt at_ 8 = bs ∧ (t.core c).pend e.id = some p ∧
          ∃ it ∈ t.agenda, it.what = .engineOperationComplete ∧ it.arg = argId c p.id ∧
            it.due = s.cycle + ((s.tile (s.tileOf c)).sees p.issued (s.cycle + 1) - s.cycle)) ∧
    (let port := portOfStep c e.id
     let w := s.portAt port
     e.k = 2 → w.waiting ≠ [] → w.free ≤ s.cycle → ∃ t, exec .remoteAccessAtHome s = .next t ∧ t.mem = s.mem ∧ (t.portAt port).free = s.cycle + 8 ∧
       ∃ r ∈ w.waiting, (∀ q ∈ w.waiting, q.before r = false) ∧ (t.portAt port).waiting = w.waiting.erase r ∧
         ∃ it ∈ t.agenda, it.what = r.what ∧ it.arg = { r.arg with k := 1 } ∧ it.due = s.dueIn r.what r.arg.core r.term) ∧
    (∀ p, x.pend e.id = some p → p.performed = false → e.k = 3 →
      s.putOffAny (s.homesOf c (p.moves.flatMap (if p.writing then Move.dsts else Move.srcs))) p.writing .remoteAccessAtHome = none →
      let w := if e.n = 1 then (0, s) else s.walksOfAll c (!p.writing) (if p.writing then accCopy else accRead) p.pieces
      (w.1 ≠ 0 → ∃ t, exec .remoteAccessAtHome s = .next t ∧ t.mem = s.mem ∧
        ∃ it ∈ t.agenda, it.what = .remoteAccessAtHome ∧ it.arg = { e with k := 3, n := 1 } ∧ it.due = s.cycle + w.1) ∧
      (w.1 = 0 → p.writing = false → (w.2.readMoves c p false).2.2.1 = [] →
        ∃ t q, exec .remoteAccessAtHome s = .next t ∧ (t.core c).pend e.id = some q ∧ q.data = (w.2.readMoves c p false).2.1 ∧
          q.moves = (w.2.readMoves c p false).1 ∧ q.writing = true ∧ ∃ it ∈ t.agenda, it.arg.core = c ∧ it.arg.id = p.id ∧
            (it.what = .engineOperationComplete ∧ it.arg.k = 2 ∨ it.what = .remoteAccessAtHome ∧ it.arg.k = 5)) ∧
      (w.1 = 0 → p.writing = true → w.2.guardWait c p p.moves = 0 →
        let r := w.2.writeStage c { p with waits := (w.2.core c).behind p.id } false
        exec .remoteAccessAtHome s = .next (if r.2 then r.1.ackLegs c p else r.1))) ∧
    (∀ p h w u walk, x.pend e.id = some p → p.performed = false → s.homeOf c p.a.toNat = some h → s.outOfTurn c p = false →
      (e.k ≠ 0 ∨ s.wayTo c p.a.toNat h = 0) → ((∃ k l, w = .at_ k l) ∨ ∃ d q b, w = .scratch d q b) → (walk = 0 ∨ e.n = 1) →
      let s0 := s.modPend c p.id fun q => { q with started := true }
      (let n := eszWidth p.esz / 8
        let old := bytesToNat (u.readAt w n)
        let y := ((p.ws[0]?).getD 0).toNat % 2 ^ eszWidth p.esz
        let z := ((p.ws[1]?).getD 0).toNat % 2 ^ eszWidth p.esz
        let cas := p.x12.toNat % 16 = 10
        let tr : Tracer := ⟨c.val, thrNum p.thr, 1⟩
        let v := u.useHome w n
        s0.putOffHome h true .ratomAtHome = none → s0.answer c p.a.toNat n true (s.accNow accAtomic) = (w, u, walk) → u.guardHold w n = 0 →
        (cas → old ≠ y → exec .ratomAtHome s = .next ((v.traceAt w tr p.a.toNat n).answerPend c p false [BitVec.ofNat 64 old])) ∧
        ((cas → old = y) → exec .ratomAtHome s = .next ((v.writeAt w false tr p.a.toNat
          (natToBytes n (if cas then z else atomNew (p.x12.toNat % 16) (eszWidth p.esz) old y))).answerPend c p false [BitVec.ofNat 64 old]))) ∧
      (s0.putOffHome h true .decrAtHome = none → s0.answer c p.a.toNat 32 true (s.accNow accDecr) = (w, u, walk) → u.guardHold w 8 = 0 →
        let dw := fun i => BitVec.ofNat 64 (bytesToNat (u.readAt (w.plus (8 * i)) 8))
        let new := dw 0 - (p.ws[0]?).getD 0
        let v := (u.useHome w 32).writeAt w false ⟨c.val, thrNum p.thr, 2⟩ p.a.toNat (natToBytes 8 new.toNat)
        let zero := 0 < (dw 0).toInt ∧ new = 0
        let dest := Word.bits (dw 1) 0 10
        let from_ := (s.agentOf c h).1
        (¬ zero → exec .decrAtHome s = .next (v.answerPend c p (decide (new.toInt < 0) || decide ((dw 0).toInt ≤ 0)) [])) ∧
        (zero → (dw 1).getLsbD 28 = true → exec .decrAtHome s = .next (v.answerPend c p false [])) ∧
        (zero → (dw 1).getLsbD 28 = false → isCore dest = false → exec .decrAtHome s = .next (v.answerPend c p true [])) ∧
        (zero → (dw 1).getLsbD 28 = false → isCore dest = true → x.inj.find? (fun q => q.id == e.id) = some p →
          (∀ q ∈ x.inj, q.thr = p.thr → ∀ n, q.mail = some n → n.ni = from_ → n.msg.dest = coreOfNat dest → n.refused = false ∧ n.held = false) →
          ∃ t m, exec .decrAtHome s = .next t ∧ t.mem = v.mem ∧ m.target = dw 1 ∧ m.args = #v[dw 2, dw 3, p.a, 0] ∧ m.thr = p.thr ∧
            ((p.thr = .prim ∨ from_.face = none) → ∃ it ∈ t.agenda, it.what = .messageArrival ∧ it.arg.core = coreOfNat dest ∧ it.arg.load = .msg m) ∧
            ∀ d, p.thr ≠ .prim → from_.face = some d → ∃ q ∈ (t.core d).slotQ, q.what = .messageArrival ∧ q.arg.core = coreOfNat dest ∧
              q.arg.load = .msg m))) ∧
    (∀ p d q0, x.pend e.id = some p → p.performed = false → s.homeOf c p.a.toNat = some (.scratch d q0) → s.outOfTurn c p = false →
      (e.k ≠ 0 ∨ s.wayTo c p.a.toNat (.scratch d q0) = 0) →
      let st := p.kind == .rstf
      let last := if p.started then p.bound else s.clock d + p.bound
      let v := s.modPend c p.id fun r => { r with started := true, bound := if p.started then r.bound else s.clock d + r.bound }
      v.putOff d true .fullEmptyRemoteArrival = none →
      ∀ q b u walk, v.answer c p.a.toNat 8 true (s.accNow accAtomic) = (.scratch d q b, u, walk) → (walk = 0 ∨ e.n = 1) →
        let now := u.feRight d q st && !((u.core d).park.any fun r => r.off == q && r.isStore == st)
        let done := (u.useHome (.scratch d q b) 8).performFe d q st ((p.ws[0]?).getD 0)
        let way := s.wayInj c p.a.toNat
        (now = true → s.clock d ≤ last → (st = true → u.guardHold (.scratch d q b) 8 = 0) →
          exec .fullEmptyRemoteArrival s = .next (done.2.answerPend c p false [done.1])) ∧
        ((last < s.clock d ∨ now = false ∧ last = s.clock d) → exec .fullEmptyRemoteArrival s = .next (u.answerPend c p true [])) ∧
        (now = false → s.clock d < last → 64 ≤ (u.core d).park.length → exec .fullEmptyRemoteArrival s = .next
          (u.sendFace (if way = 0 then none else some d) (p.thr == .prim) 1 way 2 .parkRefusalResend { argId c p.id with k := 1 })) ∧
        (now = false → s.clock d < last → (u.core d).park.length < 64 → ∃ t, exec .fullEmptyRemoteArrival s = .next t ∧ t.mem = u.mem ∧
          (t.core d).park = (u.core d).park ++ [{ src := c, id := p.id, isStore := st, off := q, data := (p.ws[0]?).getD 0, due := last, seen := false }])) ∧
    (∀ r, e.k = 1 → x.frozen = false → (s.tile (s.tileOf c)).supply = .on → x.park = [r] → r.seen = true → s.feRight c r.off r.isStore = true →
      (r.isStore = true → s.guardEnd c (s.sbt c) r.off 8 = 0) → s.memWf = true → ∃ t, exec .parkedAccessService s = .next t ∧
      (t.core c).park = [] ∧ t.isFull (progKey (s.sbt c) c r.off) = r.isStore) ∧
    (e.k ≠ 1 → (∀ r ∈ x.park, blockSub (s.sbt c) r.off = none) → ∃ t, exec .parkedAccessService s = .next t ∧ t.mem = s.mem ∧
      (t.core c).park = x.park.map fun r => { r with seen := s.feRight c r.off r.isStore }) ∧
    (∀ r, (x.park.find? fun q => q.id == e.id && q.src.val == e.n && decide (q.due ≤ s.clock c)) = some r → ∃ t, exec .parkBoundExpiry s = .next t ∧
      t.mem = s.mem ∧ ∀ q ∈ (t.core c).park, ¬ (q.src = r.src ∧ q.id = r.id)) ∧
    (∀ p, x.pend e.id = some p → p.performed = false → (p.kind = .rldf ∨ p.kind = .rstf) → ∃ t, exec .parkRefusalResend s = .next t ∧ t.mem = s.mem ∧
      (e.k = 1 → due t .parkRefusalResend p.id (s.meshAt c (s.clock c + 16))) ∧
      (e.k ≠ 1 → s.wayInj c p.a.toNat ≠ 0 → packet t p.thr .fullEmptyRemoteArrival p.id (s.wayInj c p.a.toNat))) ∧
    (∀ r side n, e.load = .notice r side n → (s.dies[(dieAt r).val].faults.find? fun q => q.at_ == r && q.key == n.key) = none →
      (s.dies[(dieAt r).val].faults.filter fun q => q.at_ == r).length < 32 →
      let sup := supervisorOf (dieOf (heardBy n.src.toNat n.home.toNat))
      let hop := nextHop (r.px, r.py) (s.xy sup)
      ∃ t, exec .faultNotice s = .next t ∧ { at_ := r, key := n.key, mask := 1#6 <<< side, src := n.src } ∈ t.dies[(dieAt r).val].faults ∧
        ∃ it ∈ t.agenda, (((r.px, r.py) = s.xy sup → it.what = .ringRecordWrite ∧ it.arg.core = sup ∧ it.due = s.cycle + 1) ∧
          ((r.px, r.py) ≠ s.xy sup → it.what = .faultNotice ∧ it.due = s.cycle + hop.2.2 ∧ it.arg.load = .notice ⟨hop.1.1, hop.1.2⟩ hop.2.1 n))) ∧
    (∀ r f, (e.load = .none ∧ r = (⟨(s.xy c).1, (s.xy c).2⟩ : RouterPos)) ∨ (∃ side n, e.load = .notice r side n) →
      (s.dies[(dieAt r).val].faults.find? fun q => q.at_ == r && q.key == faultKey e.dw.toNat) = some f →
      ∀ i ∈ [(Instr.xwakeRetry, 0), (.xwakeRefuse, 1)], ∃ t, exec i.1 s = .next t ∧ t.mem = s.mem ∧
        (∀ q ∈ t.dies[(dieAt r).val].faults, ¬ (q.at_ = r ∧ q.key = faultKey e.dw.toNat)) ∧
        (f.mask.getLsbD 4 = true → ∃ it ∈ t.agenda, it.what = .wakeAtRequester ∧ it.arg.core = coreOfNat f.src.toNat ∧ it.arg.k = i.2 ∧
          it.due = s.cycle + 1)) ∧
    (e.n ≠ 1 → e.k ≠ 1 → ∃ t, exec .wakeAtRequester s = .next t ∧ t.mem = s.mem ∧
      (t.core c).waitWake = x.waitWake.filter fun w => w.1 != faultKey e.dw.toNat) ∧
    ∀ p h, e.n ≠ 1 → x.waitWake = [(faultKey e.dw.toNat, p.id)] → x.pend p.id = some p → x.net p.id = none → p.kind = .ratom → p.moves = [] →
      s.homeOf c p.a.toNat = some h →
      let way := s.wayTo c p.a.toNat h
      (e.k ≠ 1 → ∃ t, exec .wakeAtRequester s = .next t ∧ t.mem = s.mem ∧ (t.core c).pend p.id = some { p with retried := true } ∧
        if way = 0 then due t .ratomAtHome p.id (s.cycle + readTerm h) else packet t p.thr .ratomAtHome p.id way) ∧
      (e.k = 1 → ∃ t q, exec .wakeAtRequester s = .next t ∧ (t.core c).pend p.id = some q ∧ q.err = true ∧ q.performed = true ∧ t.mem = s.mem ∧
        ∃ it ∈ t.agenda, it.what = .engineOperationComplete ∧ it.arg.core = c ∧ it.arg.id = p.id ∧ it.arg.k = 2 ∧ it.due = s.cycle)

/-- The matrix queue's steps (R201 to R204, R209, R366): the array phase reads the operands under the mapping of issue, and its end writes a
latch or a compression, whose rows are written in their order, all in the phase's last cycle (log 119); a completed entry writes its accumulators
and leaves; one in which an error was met sets `MXERR` and sends its record. -/
def Obligations.MatrixEvents : Prop :=
  ∀ (s : State) (e : MEntry),
    let c := s.evt.core
    (s.core c).mxEntry s.evt.id = some e →
    ((e.kind = .mma ∨ e.kind = .mmas) → e.latch = none → ∃ t m, exec .matrixArrayStart s = .next t ∧ (t.core c).mxEntry e.id = some m ∧
      m.bytesA = s.readProg c e.sbt e.a e.spanA ∧ m.bytesB = s.readProg c e.sbt e.b e.spanB ∧ m.kind = e.kind ∧ m.base = e.base ∧ t.mem = s.mem) ∧
    (e.kind = .mlatch → e.bad = false → ∃ t, exec .matrixArrayEnd s = .next t ∧ vget (t.prim c).regs.b e.base = BitVec.ofNat 16384 (bytesToNat e.bytesA) ∧
      (∀ i, i < 4 → i ≠ e.base % 4 → vget (t.prim c).regs.b i = vget (s.prim c).regs.b i) ∧ t.mem = s.mem) ∧
    (e.kind = .mcmpr → e.bad = false → exec .matrixArrayEnd s =
      .next (e.compressed.foldl (fun (s : State) (p : Nat × List Byte) => s.writeProg c e.sbt true (e.a + p.1) p.2) s)) ∧
    (e.bad = false → ∃ t, exec .matrixEntryComplete s = .next t ∧ (t.core c).qmx = ((s.core c).qmx.filter fun m => m.id != e.id) ∧ t.mem = s.mem ∧
      (t.prim c).regs = (s.prim c).regs.wrGroup e.base (match e.kind with
        | .mma | .mmas => e.result (s.prim c).regs
        | .mzero => List.replicate (e.mt * e.nt) 0
        | _ => [])) ∧
    (e.bad = true → ∃ t, exec .matrixEntryComplete s = .next t ∧ (t.core c).qmx = ((s.core c).qmx.filter fun m => m.id != e.id) ∧ t.mem = s.mem ∧
      (t.prim c).mxerr = true ∧ ∃ it ∈ t.agenda, it.what = .ringRecordWrite ∧ it.arg.core = supervisorOf (dieOf c))

/-- The Junction's steps (R217, R252, R330, R396, R400, R423 to R431): the head of a queue starts, and a pager request travels to the Junction,
where it waits for the control unit; it is planned, its control time runs with that of the walks which it has met, its copies are made in
pieces of 256 bytes (log 80) by one of eight copiers, and all its changes at one completion point, with its answer on its way. One that still
lacks blocks when its wait for reclaim ends is undone and ends ERROR without a record. Reports move the low-water mark (log 106), and entries
behind it are reclaimed: a held block goes back to the free list, an old place is released. A step of an undoing that meets an error is left
out (log 125). -/
def Obligations.JunctionEvents : Prop :=
  ∀ (s : State) (p : Pend),
    let e := s.evt
    let c := e.core
    let j := s.term.junction
    let due := fun (t : State) (what : Instr) (n : Nat) => ∃ it ∈ t.agenda, it.what = what ∧ it.arg.core = c ∧ it.arg.id = p.id ∧ it.due = n
    let undone := fun (v : State) (q : Pend) (r : JReq) (t : State) => ∀ w y, v.runJ (undoReq r.core r (q.kind == .kvdem)) = .ok ((), w) →
      (w.core r.core).pend r.id = some y → t.jreq r.core r.id = none ∧ t.mem = w.mem ∧
      (t.core r.core).pend r.id = some { y with performed := true, err := true, data := [] } ∧
      ∃ it ∈ t.agenda, it.what = .engineOperationComplete ∧ it.arg.core = r.core ∧ it.arg.id = r.id ∧ it.arg.k = 2 ∧
        it.due = w.cycle + (w.term.junction.walked + w.toTerminus r.core)
    (∀ r cause addr pbn, undone s p r (s.failReq r p cause addr pbn)) ∧
    (e.k ≠ 1 → e.k ≠ 2 → ∃ t, exec .xkvgLowWaterReport s = .next t ∧ t.mem = s.mem ∧
      t.term.junction.reports = (c.val, e.k == 0, e.dw) :: j.reports.filter (fun r => r.1 != c.val) ∧
      ((∃ r ∈ j.reclaim, r.stamp.toNat + 2 ≤ t.wlow.toNat) → ∃ it ∈ t.agenda, it.what = .reclaim ∧ it.due = s.cycle)) ∧
    (∀ l, l = j.reclaim.filter (fun r => decide (r.stamp.toNat + 2 ≤ s.wlow.toNat)) → l ≠ [] →
      exec .reclaim s = .next ((l.foldl State.reclaimOne s).kickJunction)) ∧
    (∀ r b u, readBlt 0 (s.arena r.arena) r.pbn s = .ok (b, u) →
      ((b.state ≠ 4 ∨ b.sump ≠ r.sump) → (s.reclaimOne r).arena r.arena = (u.arena r.arena).subUsed r.sump 1 ∧
        (s.reclaimOne r).term.junction.reclaim = u.term.junction.reclaim.erase r) ∧
      ∀ w, b.state = 4 → b.sump = r.sump →
        writeBlt 0 (u.arena r.arena) r.pbn { refs := 0, pins := 0, state := 0, sump := false, touch := (u.arena r.arena).freehd } u = .ok ((), w) →
        (s.reclaimOne r).mem = w.mem ∧ (s.reclaimOne r).arena r.arena = ((w.arena r.arena).put 11 0 24 r.pbn).subUsed r.sump 1 ∧
        (s.reclaimOne r).term.junction.reclaim = w.term.junction.reclaim.erase r) ∧
    ((s.core c).pend e.id = some p →
      (p.started = false → p.kind ∈ [PKind.kvmatch, .kvins, .kvapp, .kvrel, .kvpin, .kvdem, .kvprom] → ∃ t q, exec .queueEntryStart s = .next t ∧
        (t.core c).pend e.id = some q ∧ q.started = true ∧
        if p.thr = .prim then due t .pagerRequestArrival (s.cycle + (s.slotWait c + s.toTerminus c))
        else ∃ y, (t.core c).slotQ = (s.core c).slotQ ++ [y] ∧ y.count = 1 ∧ y.way = s.toTerminus c ∧ y.what = .pagerRequestArrival ∧ y.arg = argId c p.id) ∧
      (p.started = false → p.kind = .xcoll → ∃ t q, exec .queueEntryStart s = .next t ∧ (t.core c).pend e.id = some q ∧ q.started = true ∧
        due t .collectiveSourceRead s.cycle) ∧
      (p.started = false → (p.kind ∈ [PKind.xcp, .xcp2, .xga, .xsc] ∨ (p.kind = .xkvg ∧ p.ws = [] ∧ p.err = false)) →
        exec .queueEntryStart s = .next ((s.modPend c p.id fun q => { q with issued := s.cycle }).startCopy c { p with issued := s.cycle })) ∧
      (s.jreq c p.id = none → ∃ t r, exec .pagerRequestArrival s = .next t ∧ t.jreq c p.id = some r ∧
        r.phase = .waiting ∧ r.inService = s.arenasOpen ∧ due t .pagerRequestArrival s.cycle) ∧
      ∀ r, s.jreq c e.id = some r →
        (r.phase = .waiting → j.inControl = false → e.k ≠ 1 → e.k ≠ 2 → s.cycle < j.ctlFree →
          (∃ t, exec .pagerRequestArrival s = .next t ∧ due t .pagerRequestArrival j.ctlFree) ∧
          ∃ t, exec .evictionWaitExpiry s = .next t ∧ due t .pagerRequestArrival j.ctlFree) ∧
        (∀ pl u, r.phase = .waiting → j.inControl = false → j.ctlFree ≤ s.cycle → s.runJ (planOf c p r) = .ok (pl, u) → pl.short = false →
          (r.taken = [] → r.places = 0 → pl.alloc = 0 → pl.moves = [] → pl.cow = [] → p.kind ∉ [PKind.kvdem, .kvprom] →
            let at_ := max u.cycle u.term.junction.ctlFree + (pl.control + u.term.junction.walked)
            (e.k = 3 → ∃ t, exec .pagerRequestArrival s = .next t ∧ due t .junctionCompletionPoint at_) ∧
            ∃ t, exec .evictionWaitExpiry s = .next t ∧ due t .junctionCompletionPoint at_) ∧
          let wants := if p.kind = .kvapp ∨ p.kind = .kvpin then pl.moves.length else 0
          ∀ g v ts k w y left full at_, giveUp c pl.arena pl.alloc wants r u = .ok (g, v) →
            takeAll c pl.arena pl.alloc wants (pl.alloc + wants + 1) g.1 g.2 v = .ok ((ts, k), w) → (ts.length < pl.alloc ∨ k < wants) →
            let r1 := { r with taken := ts, places := k, arena := pl.arena }
            r.evictUntil = some at_ → at_ ≤ s.cycle → evict c pl.arena r.toEvict (w.setReq r1) = .ok ((left, full), y) →
            ∃ t, exec .evictionWaitExpiry s = .next t ∧ undone y p r1 t) ∧
        (∀ q rest, e.n = 1 → r.phase = .control → r.copies = q :: rest → r.ready ≤ s.cycle → j.copiers < 8 → ∃ t r', exec .blockCopyDone s = .next t ∧
          t.jreq c e.id = some r' ∧ r'.phase = .copying ∧ r'.chunk = 0 ∧ t.term.junction.copiers = j.copiers + 1 ∧ due t .blockCopyDone (s.cycle + 33)) ∧
        (∀ src dst len rest w, e.n ≠ 1 → r.phase = .copying → r.copies = (src, dst, len) :: rest →
          s.runJ (do let v ← jRead c (src + 256 * r.chunk) 256; jWrite c (dst + 256 * r.chunk) 256 v) = .ok ((), w) →
          ∃ t, exec .blockCopyDone s = .next t ∧ t.mem = w.mem ∧
            (256 * (r.chunk + 1) < len → due t .blockCopyDone (w.cycle + (1 + w.term.junction.walked))) ∧
            (len ≤ 256 * (r.chunk + 1) → t.jreq c e.id = some { r with chunk := 0, copies := rest, phase := .control } ∧
              t.term.junction.copiers = j.copiers - 1 ∧
              due t (if rest = [] then .junctionCompletionPoint else .blockCopyDone) s.cycle)) ∧
        ∀ ans u, r.phase = .control → r.copies = [] → s.runJ (completeOf c p r) = .ok (some ans, u) → ∃ t, exec .junctionCompletionPoint s = .next t ∧
          t.mem = u.mem ∧ t.jreq c e.id = none ∧ due t .engineOperationComplete (u.cycle + (u.term.junction.walked + u.toTerminus c)))

/-- Collectives and arenas (R402 to R407, R415, R420): a member whose use is due joins, and its contribution travels to the root, after it has
waited for the injection slot; the last one sends the combined result to every member, where its bytes are written in the cycle before the tag
completes and the use is then released; a group entry of no open use takes a write, and `ABORT` leaves no use open at a member; an arena goes
out of service, and its stamps are clamped in a period. A member's numbering, the contribution's wait and a broadcast's own order are the
model's (logs 10, 79, 105). -/
def Obligations.CollectiveEvents : Prop :=
  ∀ s : State,
    let e := s.evt
    let c := e.core
    (∀ p, (s.core c).pend e.id = some p → p.performed = false →
      let gi := collGroup p.c
      let g := s.group gi
      let d := useDesc p
      let root := coreOfNat (descRoot d)
      (g.v = false → ∃ t q, exec .collectiveSourceRead s = .next t ∧ (t.core c).pend e.id = some q ∧ q.performed = true ∧ q.err = true) ∧
      (g.v = true → g.mask.getLsbD c.val = true → g.mask.getLsbD (collRoot p.c) = true → g.aborted.contains p.use = false → p.use ≤ g.passedAt c →
        ∃ t q, exec .collectiveSourceRead s = .next t ∧ (t.core c).pend e.id = some q ∧ q.performed = true ∧
        q.data = (if descKind d = 2 && decide (root ≠ c) then [] else (s.engineRead c p p.b.toNat (descLen d)).1) ∧
        ∃ it ∈ t.agenda, it.what = .collectiveRootCombine ∧ it.arg.core = c ∧ it.arg.id = p.id ∧ it.arg.k = gi ∧ it.arg.n = p.use ∧ it.arg.dw = d ∧
          it.arg.load = .bytes q.data ∧ it.due = s.cycle + ((if root = c then 0 else s.slotWait c) + s.oneWay c root))) ∧
    (∀ u bs, (s.group e.k).use e.n = some u → e.load = .bytes bs → u.over = false → u.differed = false →
      descKind e.dw ≠ 2 → (∀ k ∈ u.contribs, k.desc = e.dw) →
      let root := coreOfNat (descRoot e.dw)
      let cs := u.contribs ++ [{ core := c, id := e.id, desc := e.dw, data := bs,
                                 at_ := ((u.joined.find? fun q => q.1 == c).map Prod.snd).getD s.cycle }]
      let whole := u.members.all fun m => cs.any fun k => k.core == m
      let base := cs.foldl (fun m k => max m k.at_) 0 + cs.foldl (fun m k => max m (s.oneWay k.core root)) 0 + collFlits e.dw false + 4
      ∃ t v, exec .collectiveRootCombine s = .next t ∧ (t.group e.k).use e.n = some v ∧ v.contribs = cs ∧ v.differed = false ∧ t.mem = s.mem ∧
        (whole = true → v.sent = true ∧ v.result = combineAll e.dw cs ∧ ∀ k ∈ cs, u.released.contains k.core = false →
          ∃ it ∈ t.agenda, it.what = .collectiveResultArrival ∧ it.arg.core = k.core ∧ it.arg.id = e.k ∧ it.arg.n = e.n ∧
            it.arg.k = 0 ∧ it.due = s.cycle + (base + s.downTime root k.core - 1 - s.cycle))) ∧
    (∀ u p, (s.group e.id).use e.n = some u → (s.core c).collEntry e.id e.n = some p → u.released.contains c = false →
      (e.k ≠ 2 → p.writing = false → (u.differed = true → e.k ≠ 0) → s.putOff c false .collectiveResultArrival = none →
        ∃ t q, exec .collectiveResultArrival s = .next t ∧ (t.core c).pend p.id = some q ∧ q.writing = true ∧ q.err = u.differed ∧
        q.data = (if u.differed = true ∨ receives (useDesc p) c = false then [] else u.result) ∧ t.mem = s.mem ∧
        (∃ it ∈ t.agenda, it.what = .engineOperationComplete ∧ it.arg.core = c ∧ it.arg.id = p.id ∧ it.arg.k = 2 ∧ it.due = s.cycle) ∧
        ∃ it ∈ t.agenda, it.what = .collectiveResultArrival ∧ it.arg = { e with k := 2 } ∧ it.due = s.cycle + 1) ∧
      (e.k = 2 → ∃ t, exec .collectiveResultArrival s = .next t ∧ t.mem = s.mem ∧
        (t.group e.id).passedAt c = max (u.num + 1) ((s.group e.id).passedAt c))) ∧
    (∀ gi i, gi < 256 → (s.group gi).busy = false →
      (e.n = 0x30000 + 256 * gi → ∃ t, exec .collectiveGroupWrite s = .next t ∧ (t.group gi).v = e.dw.getLsbD 63 ∧ (t.group gi).mask = (s.group gi).mask) ∧
      (i < 16 → e.n = 0x30080 + 256 * gi + 8 * i → ∃ t, exec .collectiveGroupWrite s = .next t ∧ (t.group gi).v = (s.group gi).v ∧
        ∀ b, b < 1024 → (t.group gi).mask.getLsbD b = if b / 64 = i then e.dw.getLsbD (b % 64) else (s.group gi).mask.getLsbD b)) ∧
    (∃ t, exec .collectiveAbort s = .next t ∧ (t.group (e.n % 256)).v = (s.group (e.n % 256)).v ∧
      (t.group (e.n % 256)).mask = (s.group (e.n % 256)).mask ∧
      ∀ u ∈ (t.group (e.n % 256)).opens, u ∈ (s.group (e.n % 256)).opens ∧ u.over = true) ∧
    (∀ n, n < 16 →
      (e.n = 0x40000 + 128 * n → (s.arena n).v = true → e.dw.getLsbD 63 = false → ∃ t, exec .arenaDescriptorWrite s = .next t ∧
        (t.arena n).v = false ∧ t.mem = s.mem) ∧
      ∀ i ∈ [1, 2, 3, 4, 5, 7], e.n = 0x40000 + 128 * n + 8 * i → (s.arena n).v = false → ∃ t, exec .arenaDescriptorWrite s = .next t ∧
        vget (t.arena n).dws i = (e.dw &&& 0x00FFFFFFFFFFFFFF) ||| (vget (s.arena n).dws i &&& 0xFF00000000000000)) ∧
    ((s.arena (e.n % 16)).v = true →
      let r := (List.range (s.arena (e.n % 16)).nblk).foldl (fun (r : Nat × State) p =>
        match clampBlock 0 (s.arena (e.n % 16)) p r.2 with
        | .ok (true, t) => (r.1 + 1, t)
        | .ok (false, t) => (r.1, t)
        | .error _ => r) (0, s)
      exec .touchClamp s = .next ((r.2.modTerm fun t =>
        { t with junction := { t.junction with ctlFree := max t.junction.ctlFree r.2.cycle + 8 * r.1 } }).after (nsCycles (2 ^ 40)) 2 .touchClamp e)) ∧
    ∀ (a : Arena) (p : Nat) (b : Blt) (u : State), readBlt 0 a p s = .ok (b, u) →
      (b.state = 0 ∨ ageOf (stampOf s.tsc) b.touch ≤ 2 ^ 26 → clampBlock 0 a p s = .ok (false, u)) ∧
      (∀ v, b.state ≠ 0 → 2 ^ 26 < ageOf (stampOf s.tsc) b.touch →
        writeBlt 0 a p { b with touch := (stampOf s.tsc + 2 ^ 28 - 2 ^ 26) % 2 ^ 28 } u = .ok ((), v) → clampBlock 0 a p s = .ok (true, v))

/-- Captures, resumes, the record ring, the handler and the block table (R269 to R272, R313, R314, R367 to R384, R518). A capture sets the
context aside, its extension in way 15, writes one vector of the frame in each cycle and ends after the frame's cycles: the supervisor enters
its handler, another core is idle or takes its launch. A halted thread resumes under its record with its incomplete operations owed; a context
resumes with the registers of its frame, at the address that the frame gives. A record goes to the ring's next place. The handler starts with
the task-start values; a restart logs the notice (log 16: the captured context is gone). A block-table step changes its entry alone, and a spill
or a fill moves the block's 32 KiB. The write-through of an extension (log 14) and `BSY` in a frame (log 15) are the model's. -/
def Obligations.SupervisorEvents : Prop :=
  ∀ s : State,
    let e := s.evt
    let c := e.core
    let x := s.core c
    let p := s.prim c
    (p.mode = .capturing →
      (e.id = 0 → x.qmx = [] → x.cap = none → ∃ t k, exec .captureStart s = .next t ∧ (t.core c).cap = some k ∧
        k.frameAt = scratchKey c (x.ctl.capbase.toNat * 4096) ∧ k.keep.regs = p.regs ∧ k.keep.flight = p.flight ∧ k.keep.pc = p.pc ∧ k.keep.br = p.br ∧
        k.cause = BitVec.ofNat 8 e.k ∧ (t.prim c).mode = .capturing ∧ (t.prim c).flight = [] ∧
        (s.memWf = true → t.readKey (l2Key c 15 0) p.extLen = p.extension) ∧
        ∃ it ∈ t.agenda, it.what = .captureEnd ∧ it.arg = e ∧ it.due = s.meshAt c (s.clock c + (p.frameCycles - 1))) ∧
      (∀ k, e.id ≠ 0 → x.cap = some k → ∃ t, exec .captureStart s = .next t ∧ t.mem = (s.writeVector c k (e.id - 1)).mem ∧
        (e.id < 160 → ∃ it ∈ t.agenda, it.what = .captureStart ∧ it.arg = { e with id := e.id + 1 } ∧ it.due = s.meshAt c (s.clock c + 1))) ∧
      (e.k = 0x14 → ∃ t, exec .captureEnd s = .next t ∧ t.mem = s.mem ∧ ∃ it ∈ t.agenda, it.what = .migration ∧ it.arg.core = c ∧ it.arg.k = 2) ∧
      (e.k ≠ 0x14 → isSupervisor c = true → ∃ t, exec .captureEnd s = .next t ∧ t.mem = s.mem ∧
        ∃ it ∈ t.agenda, it.what = .supervisorHandlerEntry ∧ it.arg.core = c) ∧
      (e.k ≠ 0x14 → isSupervisor c = false → ∃ t, exec .captureEnd s = .next t ∧ t.mem = s.mem ∧ (t.core c).capReq = none ∧
        ((t.prim c).mode = .idle ∨ (t.prim c).mode = .capturing))) ∧
    (∀ r, s.putOff c true .contextResume = none → e.thr = .prim → p.fault = some r → r.received = false → r.stamp = e.dw → r.moved = false → r.enc = false → (e.k = 2 ∨ e.k = 3) →
      s.earlierPost c .prim = false →
      let left := r.pres &&& ~~~r.done &&& ~~~(if e.k = 3 then 1#10 <<< r.slot.toNat else 0)
      left ≠ 0 → ∃ t, exec .contextResume s = .next t ∧ (t.prim c).mode = .running ∧ (t.prim c).fault = none ∧ (t.prim c).replay = left ∧
        (t.prim c).pc = p.pc ∧ (t.prim c).regs = p.regs ∧ t.mem = s.mem ∧ ∃ it ∈ t.agenda, it.what = .bundleFetch ∧ it.arg.core = c ∧
          it.due = s.meshAt c (s.clock c + 1)) ∧
    (∀ k r, s.putOff c true .contextResume = none → e.thr = .scav k → (s.scav c k).fault = some r → r.received = false → r.stamp = e.dw → e.k = 2 →
      s.earlierPost c (.scav k) = false →
      ∃ t, exec .contextResume s = .next t ∧ (t.scav c k).st = .ready ∧ (t.scav c k).fault = none ∧ (t.scav c k).pc = (s.scav c k).pc ∧ t.mem = s.mem) ∧
    (∀ q, p.mode = .capturing → e.k = 1 → x.captured (some e.n) = some q → q.keep.frameCycles ≤ 160 → q.idle = false → q.keep.fault = none →
      (q.keep.task.any fun t => !t.body) = false → ∃ t, exec .contextResume s = .next t ∧ (t.prim c).mode = .running ∧
      (t.prim c).regs = frameRegs (s.frameDw c q) ∧ t.mem = s.mem ∧
      let at_ := BitVec.ofNat 64 (s.frameDw c q 0x11E00)
      (t.prim c).pc = (if at_ = q.back then q.keep.pc else at_) ∧
      (t.prim c).replay = if at_ = q.back then BitVec.ofNat 10 (s.frameDw c q 0x11E18 / 2 ^ 16) &&& ~~~(BitVec.ofNat 10 (s.frameDw c q 0x11E18)) else 0) ∧
    (∀ r, s.putOff c true .ringRecordWrite = none → e.load = .record r → x.ringOut = [] → x.ctl.ringOpen = true → s.memWf = true →
      let n := Word.bits x.ctl.svrb 0 4
      let at_ := Word.bits x.ctl.svrb 12 9 * 4096 + 64 * (x.ctl.svTail.toNat % 2 ^ n)
      s.guardEnd c (s.sbt c) at_ 64 = 0 → ∃ t, exec .ringRecordWrite s = .next t ∧ t.readProg c (s.sbt c) at_ 64 = r.toList.flatMap dwBytes ∧
        (t.core c).ctl.svTail = BitVec.ofNat 16 ((x.ctl.svTail.toNat + 1) % 2 ^ n)) ∧
    (p.mode = .capturing → ∃ t, exec .supervisorHandlerEntry s = .next t ∧ (t.prim c).mode = .running ∧ (t.prim c).pc = x.ctl.svent ∧
      (t.prim c).regs = Regs.reset ∧ (t.core c).ctl.svAct = true ∧ t.mem = s.mem ∧ ∃ it ∈ t.agenda, it.what = .bundleFetch ∧ it.arg.core = c) ∧
    (∀ r, e.load = .record r → x.ctl.svrb.getLsbD 63 = true → ∃ t, exec .supervisorRestart s = .next t ∧ t.term.service.log = s.term.service.log ++ [r] ∧
      (t.prim c).mode = .running ∧ (t.prim c).pc = x.ctl.svent ∧ (t.prim c).fault = none ∧ (t.core c).ctl.svAct = false ∧
      ∃ it ∈ t.agenda, it.what = .bundleFetch ∧ it.arg.core = c) ∧
    (e.n < 64 →
      let w := vget (s.sbt c) e.n
      let is := fun (t : State) (v sp bsy : Bool) (sw pblk : Nat) => (∀ i, i < 64 → i ≠ e.n → vget (t.sbt c) i = vget (s.sbt c) i) ∧
        let u := vget (t.sbt c) e.n
        u.getLsbD 63 = v ∧ u.getLsbD 62 = sp ∧ u.getLsbD 61 = bsy ∧ Word.bits u 8 4 = sw ∧ Word.bits u 0 6 = pblk
      let way := l2Key c (Word.bits e.dw 8 4) 0
      let blk := scratchKey c (Word.bits e.dw 0 6 * 32768)
      (∃ t, exec .sbtMap s = .next t ∧ t.mem = s.mem ∧ is t (e.dw.getLsbD 63) (w.getLsbD 62) (w.getLsbD 61) (Word.bits w 8 4) (Word.bits e.dw 0 6)) ∧
      (∀ i ∈ [(Instr.sbtSpill, 1, way, blk), (.sbtFill, 0, blk, way)], ∃ t, exec i.1 s = .next t ∧
        is t (w.getLsbD 63) (w.getLsbD 62) true (Word.bits e.dw 8 4) (Word.bits e.dw 0 6) ∧
        (s.memWf = true → ∀ b, b < 32768 → Memory.get t.mem (i.2.2.1 + b) = Memory.get s.mem (i.2.2.2 + b)) ∧
        ∃ it ∈ t.agenda, it.what = .spillFillDone ∧ it.arg.core = c ∧ it.arg.n = e.n ∧ it.arg.k = i.2.1 ∧
          (s.xy c = s.vaultXY c → it.due = s.meshAt c (s.clock c + 512))) ∧
      ∃ t, exec .spillFillDone s = .next t ∧ t.mem = s.mem ∧ is t (w.getLsbD 63) (e.k == 1) false (Word.bits w 8 4) (Word.bits w 0 6))

/-- Checkpoints, loss of power and gating (R263 to R265, R457 to R474, R501, R521). A hold whose matrix queue is empty freezes its barrel; with
no scavenger's operation left it captures its threads and its dirty lines, and its commit is due when its records have taken their time. The end
writes the area whole unless a write has failed, gives the register the checkpoint's number or 0, and lets what it held go on. A warning takes
a tile or the module down, good power brings a tile back once its resume has taken its time; the flash and the fuses stay. An idle tile closes
its edge, then writes gating checkpoints once it has performed what it had accepted, is gated if they stand and goes on otherwise, and wakes 12 µs
after a request. What stands of the area's writes, and what the model keeps over a loss, are its own (logs 17 to 20, 22, 31, 123, 124). -/
def Obligations.FlowstoneEvents : Prop :=
  ∀ s : State,
    let e := s.evt
    let c := e.core
    let x := s.core c
    let n := e.n % 196
    let tl : Fin 196 := tileOfNat e.n
    (∀ k, x.ckpt = some k → k.snap = none → x.prim.mode = .checkpoint →
      (k.frozen = true → x.scavsBusy = false → ∃ t q, exec .checkpointFreeze s = .next t ∧ (t.core c).ckpt = some q ∧ q.frozen = true ∧ q.dst = k.dst ∧
        q.seq = s.newestCommit c + 1 ∧ q.lines = ((List.range 32768).filter fun i => x.dirty.getLsbD i) ∧ q.snap.isSome = true ∧ t.mem = s.mem ∧
        ∃ it ∈ t.agenda, it.what = .checkpointEnd ∧ it.arg.core = c ∧ it.due = s.ckptAt c q q.ns) ∧
      (k.frozen = false → x.qmx = [] → ∃ t q, exec .checkpointFreeze s = .next t ∧ (t.core c).ckpt = some q ∧ q.frozen = true ∧ q.began = s.cycle ∧
        q.stamp = s.tscOf c ∧ t.mem = s.mem)) ∧
    (∀ k, x.ckpt = some k → k.snap.any Snap.gating = false → ∃ t, exec .checkpointEnd s = .next t ∧ (t.core c).ckpt = none ∧ (t.core c).held = [] ∧
      t.mem = (if k.failed then s else s.flowWhole c k).mem ∧ (t.core c).dirty = (if k.failed then x.dirty else 0) ∧
      (t.prim c).flight = x.prim.flight ++ [mkFlight 9 .s k.dst false 1 true 0 (Word.toVec (BitVec.ofNat 64 (if k.failed then 0 else k.seq)))]) ∧
    (e.k = 0 → (s.tile tl).supply ≠ .lost → ∃ t, exec .powerFailWarning s = .next t ∧ (t.tile tl).supply = .lost ∧ (t.tile tl).deque = []) ∧
    (e.k = 2 → ∃ t, exec .powerFailWarning s = .next t ∧ (∀ k, 2 * 2 ^ 52 ≤ k → k < 5 * 2 ^ 52 → Memory.get t.mem k = 0) ∧
      t.term.service.flash = s.term.service.flash ∧
      t.term.service.fused = s.term.service.fused ∧ t.term.service.fusedKey = s.term.service.fusedKey) ∧
    ((s.tile tl).supply = .lost →
      (e.k = 0 → ∃ t, exec .powerGoodResume s = .next t ∧ t.mem = s.mem ∧ ∃ it ∈ t.agenda, it.what = .powerGoodResume ∧ it.arg.n = e.n ∧ it.arg.k = 1 ∧
        (s.tile tl).lasts s.cycle 118304 ≤ it.due) ∧
      (e.k = 1 → ∃ t, exec .powerGoodResume s = .next t ∧ (t.tile tl).supply = .on ∧ (t.tile tl).edge = [])) ∧
    (e.k = 0 → (s.tile tl).supply = .on → s.tileCores tl ≠ [] → ((s.tileCores tl).all fun d => s.coreIdle d) = true →
      ∃ t, exec .powerGating s = .next t ∧ (t.tile tl).supply = .closing ∧ t.mem = s.mem ∧
      ∃ it ∈ t.agenda, it.what = .powerGating ∧ it.arg = { e with k := 1 } ∧ it.due = s.cycle) ∧
    (e.k ≠ 0 → (s.tile tl).supply = .closing →
      (((s.tileCores tl).any fun d => !(s.acceptedAt d).isEmpty) = true → exec .powerGating s = .next (s.after 1 0 .powerGating e)) ∧
      (((s.tileCores tl).any fun d => !(s.acceptedAt d).isEmpty) = false → ∃ t, exec .powerGating s = .next t ∧ (t.tile tl).supply = .gating ∧
        t.mem = s.mem ∧ ∃ it ∈ t.agenda, it.what = .gatingEnd ∧ it.arg.n = e.n)) ∧
    ((s.tile tl).supply = .gating →
      let whole := (s.tileCores tl).all fun d => (s.core d).ckpt.isNone && (s.core d).dirty == 0
      (whole = true → ∃ t, exec .gatingEnd s = .next t ∧ (t.tile tl).supply = .gated ∧ t.mem = s.mem ∧ (∀ d ∈ s.tileCores tl, (t.core d).cache = []) ∧
        ((s.tile tl).edge ≠ [] → ∃ it ∈ t.agenda, it.what = .tileWake ∧ it.arg.n = n ∧ it.arg.k = 1)) ∧
      (whole = false → ∃ t, exec .gatingEnd s = .next t ∧ (t.tile tl).supply = .on ∧ (t.tile tl).edge = [] ∧ t.mem = s.mem ∧ t.cores = s.cores)) ∧
    ((s.tile tl).supply = .gated →
      (e.k = 1 → ∃ t, exec .tileWake s = .next t ∧ (t.tile tl).supply = .on ∧ (t.tile tl).edge = []) ∧
      (e.k ≠ 1 → (s.agenda.any fun i => i.what == .tileWake && i.arg.n == n && i.arg.k == 1) = false → ∃ t, exec .tileWake s = .next t ∧ t.mem = s.mem ∧
        ∃ it ∈ t.agenda, it.what = .tileWake ∧ it.arg.n = n ∧ it.arg.k = 1 ∧ it.due = (s.tile tl).lasts s.cycle 120000))

/-- What comes from the host (R321, R327, R482 to R487, R496 to R499, R517, R520). A table write that is in order answers 0; a posting fills its
slot and sends its message, or counts as an overrun; an access to the HDM ranges takes its place at its home's port, waits for its walks, and
writes or answers its bytes; a read of a semaphore acquires it if it is free, another read of BAR0 changes nothing, a write releases what its port
owns; a link that goes down leaves no slot and no semaphore; the loader refuses an image and writes nothing, or loads the cores named, the global
data and the launches; attestation answers on the mailbox. A piece of data that does not translate, the sections that an image lacks, an access at
its port, the digest of a resident program and the signatures are the model's (logs 14, 48, 109, 111, 129). -/
def Obligations.HostEvents : Prop :=
  ∀ s : State,
    let e := s.evt
    let p := e.port
    let w := s.window p
    (∀ u, s.writeMap e.id e.n e.dw = some u → ∃ t, exec .memoryMapTableWrite s = .next t ∧ t.mem = s.mem ∧
      (t.window p).answers = w.answers ++ [0] ∧ (e.id = 0x3FF → (e.n = 0x71000 → t.term.sroot = rootFields e.dw) ∧ (e.n = 0x71008 → t.term.hroot = rootFields e.dw))) ∧
    (∀ ws, e.load = .words ws → s.portAnswers p = true → s.term.service.windowsOpen = true → ws.length = 8 →
      ((vget w.slots e.n).isSome = true → ∃ t, exec .hostMessagePost s = .next t ∧ (t.window p).ovr = w.ovr + 1 ∧ (t.window p).slots = w.slots) ∧
      ((vget w.slots e.n).isSome = false → postOk ws = true → ∃ t m, exec .hostMessagePost s = .next t ∧ vget (t.window p).slots e.n = some m ∧
        m.target = (ws[0]?).getD 0 ∧ (∀ i : Fin 4, m.args[i.val] = (ws[i.val + 1]?).getD 0) ∧ m.src = 0x3FF ∧ t.mem = s.mem ∧
        ((w.order.any fun q => q.2.1 || q.2.2) = false → ∃ it ∈ t.agenda, it.what = .messageArrival ∧ it.arg.core = stationCore ∧ it.arg.load = .msg m ∧ it.due = s.cycle + s.toTerminus stationCore))) ∧
    (∀ h, e.load = .host h → s.portAnswers p = true → e.k ≠ 2 → e.id ≠ 1 →
      let q := h.parts
      let ps := piecesOf 65536 q.1 q.2.1
      let acc := if q.2.2.1 then accHost else accRead
      let w := if e.n = 1 then (0, s) else s.walksOfAll 0 (!q.2.2.1) acc ps
      let r := s.askHost { acc with walked := true } (!q.2.2.1) ps
      addrOk q.1 = true → (q.2.1 = 0 ∨ addrOk (q.1 + q.2.1 - 1) = true) → s.putOffAny (ps.filterMap fun x => s.homeOf 0 x.1) q.2.2.1 .hostMemoryAccess = none →
      (ps.any fun x => (s.homeOf 0 x.1).isNone) = false →
      (e.k = 0 → exec .hostMemoryAccess s = .next (s.hostArrives ps q.2.2.1)) ∧
      (e.k ≠ 0 → w.1 ≠ 0 → exec .hostMemoryAccess s = .next (w.2.after w.1 2 .hostMemoryAccess { e with n := 1 })) ∧
      (e.k ≠ 0 → w.1 = 0 → r.2.2.1 = none → r.2.1 = true → q.2.2.1 = true → exec .hostMemoryAccess s = .next ((r.1.foldl (fun s x => s.writeAt x.2.2 true ⟨0x3FF, 10, 5⟩ x.1
        ((q.2.2.2.drop (x.1 - q.1)).take x.2.1)) r.2.2.2).answerHost p 0)) ∧
      (e.k ≠ 0 → w.1 = 0 → r.2.2.1 = none → r.2.1 = true → q.2.2.1 = false → ∃ t, exec .hostMemoryAccess s = .next t ∧ t.mem = r.2.2.2.mem ∧
        (t.window p).reads = (r.2.2.2.window p).reads ++ [r.1.flatMap fun x => r.2.2.2.readAt x.2.2 x.2.1])) ∧
    (e.load = .sem (.port p) → s.semDelay (.port p) = none → s.ioAnswers p = true →
      (e.k = 8 → ∃ t, exec .semaphoreRead s = .next t ∧ (∀ i, t.sem i = s.sem i) ∧ (t.window p).slots = w.slots ∧ t.mem = s.mem ∧
        (t.window p).answers = w.answers ++ [if e.n = 0x400 then w.status
          else if 0x800 ≤ e.n ∧ e.n < 0xA00 ∧ e.n % 16 = 8 then (s.sem ((e.n - 0x800) / 16)).stamp else 0]) ∧
      (e.n < 32 → e.k ≠ 8 → (s.sem e.n).owner = 0 → ∃ t, exec .semaphoreRead s = .next t ∧ (t.sem e.n).owner = ownerCode (.port p) ∧
        (t.window p).answers = w.answers ++ [BitVec.ofNat 64 (2 ^ 63 + (ownerCode (.port p)).toNat)]) ∧
      (e.n < 32 → e.k ≠ 8 → (s.sem e.n).owner ≠ 0 → ∃ t, exec .semaphoreRead s = .next t ∧ t.sem e.n = s.sem e.n ∧
        (t.window p).answers = w.answers ++ [(s.sem e.n).owner.setWidth 64]) ∧
      (e.n < 32 → ∃ t, exec .semaphoreRelease s = .next t ∧ (t.window p).answers = w.answers ++ [0] ∧
        (t.sem e.n).owner = if (s.sem e.n).owner = ownerCode (.port p) then 0 else (s.sem e.n).owner)) ∧
    (∃ t, exec .hostLinkDown s = .next t ∧ (t.window p).up = false ∧ (∀ i, (vget (t.window p).slots i).isNone = true) ∧
      ∀ i, i < 32 → (t.sem i).owner ≠ ownerCode (.port p)) ∧
    (∀ im, e.load = .image im → s.term.service.boot = .running → (s.term.service.windowsOpen = true ∨ im.descs = []) →
      (s.checkImage im ≠ 0 → ∃ t, exec .imageLoad s = .next t ∧ t.mem = s.mem ∧ t.cores = s.cores ∧ t.term.launches = s.term.launches ∧
        t.term.service.refused = s.term.service.refused ++ [BitVec.ofNat 8 (s.checkImage im)]) ∧
      (s.checkImage im = 0 →
        let l := membersOf (s.loadCores im)
        let u := (im.descs.map fun ws => (ws, (s.loadSet im ws).getD 0)).foldl (fun s q =>
          match s.freeLaunch (firstDie q.2) with
          | some id => s.allocLaunch id q.1 q.2 im.code
          | none => s) ((l.foldl (fun s i => s.loadOne im (coreOfNat i)) s).loadGlobal im)
        exec .imageLoad s = .next ((l.foldl (fun s i => s.after 0 3 .dispatch (EvArg.ofCore (coreOfNat i))) u).answerHost p 0))) ∧
    (s.term.service.boot ≠ .off → w.up = true →
      let v := s.term.service
      let reply := fun (i : Instr) (P : SpdmAnswer → Prop) => ∃ t a, exec i s = .next t ∧ P a ∧ (t.window p).mail = w.mail ++ [a] ∧ t.mem = s.mem
      reply .getVersion (fun a => a = .version 1 3) ∧ reply .getCapabilities (fun a => a = .capabilities false false) ∧
      reply .negotiateAlgorithms (fun a => a = .algorithms 521 512) ∧ reply .getDigests (fun a => a = .digests (sha512 v.chain)) ∧
      reply .getCertificate (fun a => a = .certificate v.chain) ∧ reply .challenge (fun a => ∃ x, a = .challenge x) ∧
      (∀ f, v.current = some f → reply .getMeasurements (fun a => ∃ x, a = .measurements Config.romDigest (sha512 f.body) f.station.digest
        f.supervisor.digest v.fused v.fusedKey x)) ∧
      (v.current = none → reply .getMeasurements (fun a => ∃ x, a = .measurements Config.romDigest (sha512 []) (sha512 []) (sha512 [])
        v.fused v.fusedKey x)))

/-- The power and management controllers (R475, R501 to R519). A clock stop ends at its tile's point; a write of `PWCAP` by the station changes
the bytes that it names; an epoch sets every tile's thermal cap from all four of its positions' sensors and the budget, and the next one follows in
10 µs; a migration is requested once, its copy takes 33,000 cycles of the core's clock, and its end exchanges the two table entries; a corrected
error counts, an uncorrectable one in a scratchpad spoils its doubleword and sends a record; one of a bank's 8 spare rows replaces a row; the
boot takes the first accepted image or enters recovery, starts the supervisors, then the station. Sensors and powers, what a firmware image holds,
the built table, a soft error's address, a bank's rows and the fused digest are the model's (logs 30, 109, 110, 111, 126, 130, 131). -/
def Obligations.PowerEvents : Prop :=
  ∀ s : State,
    let e := s.evt
    let c := e.core
    let v := s.term.service
    (∃ t, exec .clockStopEnd s = .next t ∧ (t.tile (tileOfNat e.n)).stopped = false ∧ (t.tile (tileOfNat e.n)).cur = e.k ∧ t.mem = s.mem) ∧
    (∃ t, exec .pwcapWrite s = .next t ∧ (c ≠ stationCore → t.term.service.pwcap = v.pwcap) ∧
      (c = stationCore → ∀ i, i < 64 → t.term.service.pwcap.getLsbD i =
        if 8 * e.id ≤ i ∧ i < 8 * e.id + 8 * (if e.n = 0 then 8 else e.n) then e.dw.getLsbD (i - 8 * e.id) else v.pwcap.getLsbD i)) ∧
    (∃ t, exec .epochBoundary s = .next t ∧ (∀ i, (t.tile i).thermal = nextThermal (s.readSensors.tileTemps i) (s.tile i).thermal) ∧
      t.term.service.budget = (v.nextBudget s.capNow).budget ∧ t.mem = s.mem ∧
      ∃ it ∈ t.agenda, it.what = .epochBoundary ∧ it.due = s.cycle + 17000) ∧
    (let q := vget s.dies[(dieOf c).val].lpt (if e.id = 0 then e.n else s.posOf (coreOfNat (e.id - 1)));
      let d := coreOfNat q.lid.toNat
      (isCore q.lid.toNat = true → ((s.core d).moveReq ≠ none ∨ (s.core d).move ≠ none) →
        (e.k ≠ 2 → exec .migrationRequest s = .next s) ∧
        (e.k = 2 → ((s.core d).move.any fun m => m.swapped) = true → exec .migrationRequest s = .next (s.after 1 2 .migrationRequest e)) ∧
        (e.k = 2 → ((s.core d).move.any fun m => m.swapped) = false → ∃ t, exec .migrationRequest s = .next t ∧ t.mem = s.mem ∧
          (t.core d).moveReq = (s.core d).moveReq.map (fun _ => 2) ∧ ∀ m, (t.core d).move = some m → m.why = 2)) ∧
      (      isCore q.lid.toNat = true → (s.core d).moveReq = none → (s.core d).move = none → (s.moveTo d).isSome = true →
      ∃ t, exec .migrationRequest s = .next t ∧ (t.core d).moveReq = some e.k ∧ t.mem = s.mem ∧ ∃ it ∈ t.agenda, it.what = .migration ∧ it.arg.core = d)) ∧
    (∀ m, (s.core c).move = some m →
      (e.k = 2 → ∃ t, exec .migration s = .next t ∧ t.mem = s.mem ∧ ∃ it ∈ t.agenda, it.what = .moveCopyEnd ∧ it.arg.core = c ∧ it.due = s.meshAt c (s.clock c + 33000)) ∧
      (e.k = 4 → (s.core c).qnet = [] → (s.prim c).mode ≠ .capturing → ∃ t q, exec .migration s = .next t ∧ (t.core c).move = some q ∧ q.held = true ∧
        q.dest = m.dest ∧ (t.core c).cache = [] ∧ t.mem = s.mem) ∧
      (m.peer = none → m.dest < 196 → m.dest ≠ s.posOf c → ∃ t, exec .moveCopyEnd s = .next t ∧ (t.core c).move = none ∧ (t.core c).held = [] ∧ t.mem = s.mem ∧
        (vget t.dies[(dieOf c).val].lpt m.dest).lid = (vget s.dies[(dieOf c).val].lpt (s.posOf c)).lid ∧
        (vget t.dies[(dieOf c).val].lpt (s.posOf c)).lid = (vget s.dies[(dieOf c).val].lpt m.dest).lid)) ∧
    (∀ r, e.load = .error r → isCore r.core.toNat = true →
      let d := coreOfNat r.core.toNat
      (e.k = 1 → ∃ t, exec .uncorrectableError s = .next t ∧ t.mem = s.mem ∧
        vget (t.core d).corrected (r.unit.code - 1) = vget (s.core d).corrected (r.unit.code - 1) + 1) ∧
      (e.k ≠ 1 → r.unit = .scratchpad → ∃ t, exec .uncorrectableError s = .next t ∧ t.mem = s.mem ∧
        scratchKey d (r.addr.toNat % 2 ^ 21 / 8 * 8) ∈ t.spoilt ∧ ∃ it ∈ t.agenda, it.what = .ringRecordWrite ∧ it.arg.core = supervisorOf (dieOf d))) ∧
    (let row := e.n / Config.rowSize
      let used := ((s.core c).spared.filter fun q => Config.rowBank q == Config.rowBank row).length
      let lo := vaultKey c (row * Config.rowSize)
      (8 ≤ used → exec .spareRowReplacement s = .next s) ∧
      (used < 8 → ∃ t, exec .spareRowReplacement s = .next t ∧ (t.core c).spared = row :: (s.core c).spared ∧ (∀ k ∈ t.spoilt, k < lo ∨ lo + Config.rowSize ≤ k) ∧
      (s.memWf = true → ∀ k, k < lo ∨ lo + Config.rowSize ≤ k → Memory.get t.mem k = Memory.get s.mem k))) ∧
    (∃ t, exec .peerLinkRetrain s = .next t ∧ vget t.term.peerLanes e.n = 4 ∧ t.mem = s.mem) ∧
    (e.k = 0 → v.choose = none → ∃ t, exec .powerOnBoot s = .next t ∧ t.term.service.boot = .recovery ∧ t.mem = s.mem) ∧
    (∀ f, e.k = 0 → v.choose = some f → ∃ t, exec .powerOnBoot s = .next t ∧ t.term.service.boot = .running ∧ t.term.service.current = some f ∧
      t.term.service.leakage = f.leakage ∧ t.term.service.safeb = f.safeBudget ∧ t.term.service.windowsOpen = false ∧ t.mem = s.mem) ∧
    (∀ f, e.k = 1 → v.current = some f → ((List.finRange 196).any fun i => (s.tile i).supply == .lost) = false → ∃ t, exec .powerOnBoot s = .next t ∧
      (∀ d, (t.core (supervisorOf d)).code = f.supervisor.code ∧ (t.prim (supervisorOf d)).pc = f.supervisor.entry ∧
        (t.prim (supervisorOf d)).mode = .running ∧ (t.core (supervisorOf d)).ctl.svrb.getLsbD 63 = false ∧
        ∃ it ∈ t.agenda, it.what = .bundleFetch ∧ it.arg.core = supervisorOf d) ∧
      ∃ it ∈ t.agenda, it.what = .epochBoundary ∧ it.due = s.cycle + 17000) ∧
    (∀ f, e.k = 2 → v.current = some f → v.windowsOpen = false → ∃ t, exec .powerOnBoot s = .next t ∧ t.term.service.windowsOpen = true ∧
      (t.core stationCore).code = f.station.code ∧ (t.prim stationCore).pc = f.station.entry ∧ (t.prim stationCore).mode = .running ∧
      ∃ it ∈ t.agenda, it.what = .bundleFetch ∧ it.arg.core = stationCore) ∧
    (v.boot ≠ .running → ∃ t, exec .hostReset s = .next t ∧ t.mem = s.mem ∧ ∃ it ∈ t.agenda, it.what = .powerOnBoot ∧ it.due = s.cycle) ∧
    ∀ f, v.boot = .recovery → e.load = .firmware f → ∃ t, exec .recoveryImageWrite s = .next t ∧ vget t.term.service.flash 1 = some f ∧ t.mem = s.mem
end

