-- ==== Sys2Proof/Laws/State.lean ====
section
/-! SUPPORT. What each update of the state leaves: one equation for each field, and what it makes of a core. -/

namespace Sys2Proof.Machine

open Sys2Proof

/-! ### `State.setCore` -/

@[simp] theorem State.setCore_tiles (s : State) (c : CoreId) (x : Core) : (s.setCore c x).tiles = s.tiles := rfl
@[simp] theorem State.setCore_dies (s : State) (c : CoreId) (x : Core) : (s.setCore c x).dies = s.dies := rfl
@[simp] theorem State.setCore_term (s : State) (c : CoreId) (x : Core) : (s.setCore c x).term = s.term := rfl
@[simp] theorem State.setCore_mem (s : State) (c : CoreId) (x : Core) : (s.setCore c x).mem = s.mem := rfl
@[simp] theorem State.setCore_empty (s : State) (c : CoreId) (x : Core) : (s.setCore c x).empty = s.empty := rfl
@[simp] theorem State.setCore_spoilt (s : State) (c : CoreId) (x : Core) : (s.setCore c x).spoilt = s.spoilt := rfl
@[simp] theorem State.setCore_cycle (s : State) (c : CoreId) (x : Core) : (s.setCore c x).cycle = s.cycle := rfl
@[simp] theorem State.setCore_tscBase (s : State) (c : CoreId) (x : Core) : (s.setCore c x).tscBase = s.tscBase := rfl
@[simp] theorem State.setCore_agenda (s : State) (c : CoreId) (x : Core) : (s.setCore c x).agenda = s.agenda := rfl
@[simp] theorem State.setCore_evt (s : State) (c : CoreId) (x : Core) : (s.setCore c x).evt = s.evt := rfl
@[simp] theorem State.setCore_iss (s : State) (c : CoreId) (x : Core) : (s.setCore c x).iss = s.iss := rfl
@[simp] theorem State.setCore_free (s : State) (c : CoreId) (x : Core) : (s.setCore c x).free = s.free := rfl

/-! ### `State.modCore` -/

@[simp] theorem State.modCore_tiles (s : State) (c : CoreId) (f : Core → Core) : (s.modCore c f).tiles = s.tiles := rfl
@[simp] theorem State.modCore_dies (s : State) (c : CoreId) (f : Core → Core) : (s.modCore c f).dies = s.dies := rfl
@[simp] theorem State.modCore_term (s : State) (c : CoreId) (f : Core → Core) : (s.modCore c f).term = s.term := rfl
@[simp] theorem State.modCore_mem (s : State) (c : CoreId) (f : Core → Core) : (s.modCore c f).mem = s.mem := rfl
@[simp] theorem State.modCore_empty (s : State) (c : CoreId) (f : Core → Core) : (s.modCore c f).empty = s.empty := rfl
@[simp] theorem State.modCore_spoilt (s : State) (c : CoreId) (f : Core → Core) : (s.modCore c f).spoilt = s.spoilt := rfl
@[simp] theorem State.modCore_cycle (s : State) (c : CoreId) (f : Core → Core) : (s.modCore c f).cycle = s.cycle := rfl
@[simp] theorem State.modCore_tscBase (s : State) (c : CoreId) (f : Core → Core) : (s.modCore c f).tscBase = s.tscBase := rfl
@[simp] theorem State.modCore_agenda (s : State) (c : CoreId) (f : Core → Core) : (s.modCore c f).agenda = s.agenda := rfl
@[simp] theorem State.modCore_evt (s : State) (c : CoreId) (f : Core → Core) : (s.modCore c f).evt = s.evt := rfl
@[simp] theorem State.modCore_iss (s : State) (c : CoreId) (f : Core → Core) : (s.modCore c f).iss = s.iss := rfl
@[simp] theorem State.modCore_free (s : State) (c : CoreId) (f : Core → Core) : (s.modCore c f).free = s.free := rfl

/-! ### `State.modPrim` -/

@[simp] theorem State.modPrim_tiles (s : State) (c : CoreId) (f : Prim → Prim) : (s.modPrim c f).tiles = s.tiles := rfl
@[simp] theorem State.modPrim_dies (s : State) (c : CoreId) (f : Prim → Prim) : (s.modPrim c f).dies = s.dies := rfl
@[simp] theorem State.modPrim_term (s : State) (c : CoreId) (f : Prim → Prim) : (s.modPrim c f).term = s.term := rfl
@[simp] theorem State.modPrim_mem (s : State) (c : CoreId) (f : Prim → Prim) : (s.modPrim c f).mem = s.mem := rfl
@[simp] theorem State.modPrim_empty (s : State) (c : CoreId) (f : Prim → Prim) : (s.modPrim c f).empty = s.empty := rfl
@[simp] theorem State.modPrim_spoilt (s : State) (c : CoreId) (f : Prim → Prim) : (s.modPrim c f).spoilt = s.spoilt := rfl
@[simp] theorem State.modPrim_cycle (s : State) (c : CoreId) (f : Prim → Prim) : (s.modPrim c f).cycle = s.cycle := rfl
@[simp] theorem State.modPrim_tscBase (s : State) (c : CoreId) (f : Prim → Prim) : (s.modPrim c f).tscBase = s.tscBase := rfl
@[simp] theorem State.modPrim_agenda (s : State) (c : CoreId) (f : Prim → Prim) : (s.modPrim c f).agenda = s.agenda := rfl
@[simp] theorem State.modPrim_evt (s : State) (c : CoreId) (f : Prim → Prim) : (s.modPrim c f).evt = s.evt := rfl
@[simp] theorem State.modPrim_iss (s : State) (c : CoreId) (f : Prim → Prim) : (s.modPrim c f).iss = s.iss := rfl
@[simp] theorem State.modPrim_free (s : State) (c : CoreId) (f : Prim → Prim) : (s.modPrim c f).free = s.free := rfl

/-! ### `State.modScav` -/

@[simp] theorem State.modScav_tiles (s : State) (c : CoreId) (k : Fin 8) (f : Scav → Scav) : (s.modScav c k f).tiles = s.tiles := rfl
@[simp] theorem State.modScav_dies (s : State) (c : CoreId) (k : Fin 8) (f : Scav → Scav) : (s.modScav c k f).dies = s.dies := rfl
@[simp] theorem State.modScav_term (s : State) (c : CoreId) (k : Fin 8) (f : Scav → Scav) : (s.modScav c k f).term = s.term := rfl
@[simp] theorem State.modScav_mem (s : State) (c : CoreId) (k : Fin 8) (f : Scav → Scav) : (s.modScav c k f).mem = s.mem := rfl
@[simp] theorem State.modScav_empty (s : State) (c : CoreId) (k : Fin 8) (f : Scav → Scav) : (s.modScav c k f).empty = s.empty := rfl
@[simp] theorem State.modScav_spoilt (s : State) (c : CoreId) (k : Fin 8) (f : Scav → Scav) : (s.modScav c k f).spoilt = s.spoilt := rfl
@[simp] theorem State.modScav_cycle (s : State) (c : CoreId) (k : Fin 8) (f : Scav → Scav) : (s.modScav c k f).cycle = s.cycle := rfl
@[simp] theorem State.modScav_tscBase (s : State) (c : CoreId) (k : Fin 8) (f : Scav → Scav) : (s.modScav c k f).tscBase = s.tscBase := rfl
@[simp] theorem State.modScav_agenda (s : State) (c : CoreId) (k : Fin 8) (f : Scav → Scav) : (s.modScav c k f).agenda = s.agenda := rfl
@[simp] theorem State.modScav_evt (s : State) (c : CoreId) (k : Fin 8) (f : Scav → Scav) : (s.modScav c k f).evt = s.evt := rfl
@[simp] theorem State.modScav_iss (s : State) (c : CoreId) (k : Fin 8) (f : Scav → Scav) : (s.modScav c k f).iss = s.iss := rfl
@[simp] theorem State.modScav_free (s : State) (c : CoreId) (k : Fin 8) (f : Scav → Scav) : (s.modScav c k f).free = s.free := rfl

/-! ### `State.modCtl` -/

@[simp] theorem State.modCtl_tiles (s : State) (c : CoreId) (f : CoreCtl → CoreCtl) : (s.modCtl c f).tiles = s.tiles := rfl
@[simp] theorem State.modCtl_dies (s : State) (c : CoreId) (f : CoreCtl → CoreCtl) : (s.modCtl c f).dies = s.dies := rfl
@[simp] theorem State.modCtl_term (s : State) (c : CoreId) (f : CoreCtl → CoreCtl) : (s.modCtl c f).term = s.term := rfl
@[simp] theorem State.modCtl_mem (s : State) (c : CoreId) (f : CoreCtl → CoreCtl) : (s.modCtl c f).mem = s.mem := rfl
@[simp] theorem State.modCtl_empty (s : State) (c : CoreId) (f : CoreCtl → CoreCtl) : (s.modCtl c f).empty = s.empty := rfl
@[simp] theorem State.modCtl_spoilt (s : State) (c : CoreId) (f : CoreCtl → CoreCtl) : (s.modCtl c f).spoilt = s.spoilt := rfl
@[simp] theorem State.modCtl_cycle (s : State) (c : CoreId) (f : CoreCtl → CoreCtl) : (s.modCtl c f).cycle = s.cycle := rfl
@[simp] theorem State.modCtl_tscBase (s : State) (c : CoreId) (f : CoreCtl → CoreCtl) : (s.modCtl c f).tscBase = s.tscBase := rfl
@[simp] theorem State.modCtl_agenda (s : State) (c : CoreId) (f : CoreCtl → CoreCtl) : (s.modCtl c f).agenda = s.agenda := rfl
@[simp] theorem State.modCtl_evt (s : State) (c : CoreId) (f : CoreCtl → CoreCtl) : (s.modCtl c f).evt = s.evt := rfl
@[simp] theorem State.modCtl_iss (s : State) (c : CoreId) (f : CoreCtl → CoreCtl) : (s.modCtl c f).iss = s.iss := rfl
@[simp] theorem State.modCtl_free (s : State) (c : CoreId) (f : CoreCtl → CoreCtl) : (s.modCtl c f).free = s.free := rfl

/-! ### `State.modRegs` -/

@[simp] theorem State.modRegs_tiles (s : State) (c : CoreId) (f : Regs → Regs) : (s.modRegs c f).tiles = s.tiles := rfl
@[simp] theorem State.modRegs_dies (s : State) (c : CoreId) (f : Regs → Regs) : (s.modRegs c f).dies = s.dies := rfl
@[simp] theorem State.modRegs_term (s : State) (c : CoreId) (f : Regs → Regs) : (s.modRegs c f).term = s.term := rfl
@[simp] theorem State.modRegs_mem (s : State) (c : CoreId) (f : Regs → Regs) : (s.modRegs c f).mem = s.mem := rfl
@[simp] theorem State.modRegs_empty (s : State) (c : CoreId) (f : Regs → Regs) : (s.modRegs c f).empty = s.empty := rfl
@[simp] theorem State.modRegs_spoilt (s : State) (c : CoreId) (f : Regs → Regs) : (s.modRegs c f).spoilt = s.spoilt := rfl
@[simp] theorem State.modRegs_cycle (s : State) (c : CoreId) (f : Regs → Regs) : (s.modRegs c f).cycle = s.cycle := rfl
@[simp] theorem State.modRegs_tscBase (s : State) (c : CoreId) (f : Regs → Regs) : (s.modRegs c f).tscBase = s.tscBase := rfl
@[simp] theorem State.modRegs_agenda (s : State) (c : CoreId) (f : Regs → Regs) : (s.modRegs c f).agenda = s.agenda := rfl
@[simp] theorem State.modRegs_evt (s : State) (c : CoreId) (f : Regs → Regs) : (s.modRegs c f).evt = s.evt := rfl
@[simp] theorem State.modRegs_iss (s : State) (c : CoreId) (f : Regs → Regs) : (s.modRegs c f).iss = s.iss := rfl
@[simp] theorem State.modRegs_free (s : State) (c : CoreId) (f : Regs → Regs) : (s.modRegs c f).free = s.free := rfl

/-! ### `State.modTerm` -/

@[simp] theorem State.modTerm_cores (s : State) (f : Terminus → Terminus) : (s.modTerm f).cores = s.cores := rfl
@[simp] theorem State.modTerm_tiles (s : State) (f : Terminus → Terminus) : (s.modTerm f).tiles = s.tiles := rfl
@[simp] theorem State.modTerm_dies (s : State) (f : Terminus → Terminus) : (s.modTerm f).dies = s.dies := rfl
@[simp] theorem State.modTerm_mem (s : State) (f : Terminus → Terminus) : (s.modTerm f).mem = s.mem := rfl
@[simp] theorem State.modTerm_empty (s : State) (f : Terminus → Terminus) : (s.modTerm f).empty = s.empty := rfl
@[simp] theorem State.modTerm_spoilt (s : State) (f : Terminus → Terminus) : (s.modTerm f).spoilt = s.spoilt := rfl
@[simp] theorem State.modTerm_cycle (s : State) (f : Terminus → Terminus) : (s.modTerm f).cycle = s.cycle := rfl
@[simp] theorem State.modTerm_tscBase (s : State) (f : Terminus → Terminus) : (s.modTerm f).tscBase = s.tscBase := rfl
@[simp] theorem State.modTerm_agenda (s : State) (f : Terminus → Terminus) : (s.modTerm f).agenda = s.agenda := rfl
@[simp] theorem State.modTerm_evt (s : State) (f : Terminus → Terminus) : (s.modTerm f).evt = s.evt := rfl
@[simp] theorem State.modTerm_iss (s : State) (f : Terminus → Terminus) : (s.modTerm f).iss = s.iss := rfl
@[simp] theorem State.modTerm_free (s : State) (f : Terminus → Terminus) : (s.modTerm f).free = s.free := rfl

/-! ### `State.modSvc` -/

@[simp] theorem State.modSvc_cores (s : State) (f : Service → Service) : (s.modSvc f).cores = s.cores := rfl
@[simp] theorem State.modSvc_tiles (s : State) (f : Service → Service) : (s.modSvc f).tiles = s.tiles := rfl
@[simp] theorem State.modSvc_dies (s : State) (f : Service → Service) : (s.modSvc f).dies = s.dies := rfl
@[simp] theorem State.modSvc_mem (s : State) (f : Service → Service) : (s.modSvc f).mem = s.mem := rfl
@[simp] theorem State.modSvc_empty (s : State) (f : Service → Service) : (s.modSvc f).empty = s.empty := rfl
@[simp] theorem State.modSvc_spoilt (s : State) (f : Service → Service) : (s.modSvc f).spoilt = s.spoilt := rfl
@[simp] theorem State.modSvc_cycle (s : State) (f : Service → Service) : (s.modSvc f).cycle = s.cycle := rfl
@[simp] theorem State.modSvc_tscBase (s : State) (f : Service → Service) : (s.modSvc f).tscBase = s.tscBase := rfl
@[simp] theorem State.modSvc_agenda (s : State) (f : Service → Service) : (s.modSvc f).agenda = s.agenda := rfl
@[simp] theorem State.modSvc_evt (s : State) (f : Service → Service) : (s.modSvc f).evt = s.evt := rfl
@[simp] theorem State.modSvc_iss (s : State) (f : Service → Service) : (s.modSvc f).iss = s.iss := rfl
@[simp] theorem State.modSvc_free (s : State) (f : Service → Service) : (s.modSvc f).free = s.free := rfl

/-! ### `State.modTile` -/

@[simp] theorem State.modTile_cores (s : State) (t : Fin 196) (f : TileSt → TileSt) : (s.modTile t f).cores = s.cores := rfl
@[simp] theorem State.modTile_dies (s : State) (t : Fin 196) (f : TileSt → TileSt) : (s.modTile t f).dies = s.dies := rfl
@[simp] theorem State.modTile_term (s : State) (t : Fin 196) (f : TileSt → TileSt) : (s.modTile t f).term = s.term := rfl
@[simp] theorem State.modTile_mem (s : State) (t : Fin 196) (f : TileSt → TileSt) : (s.modTile t f).mem = s.mem := rfl
@[simp] theorem State.modTile_empty (s : State) (t : Fin 196) (f : TileSt → TileSt) : (s.modTile t f).empty = s.empty := rfl
@[simp] theorem State.modTile_spoilt (s : State) (t : Fin 196) (f : TileSt → TileSt) : (s.modTile t f).spoilt = s.spoilt := rfl
@[simp] theorem State.modTile_cycle (s : State) (t : Fin 196) (f : TileSt → TileSt) : (s.modTile t f).cycle = s.cycle := rfl
@[simp] theorem State.modTile_tscBase (s : State) (t : Fin 196) (f : TileSt → TileSt) : (s.modTile t f).tscBase = s.tscBase := rfl
@[simp] theorem State.modTile_agenda (s : State) (t : Fin 196) (f : TileSt → TileSt) : (s.modTile t f).agenda = s.agenda := rfl
@[simp] theorem State.modTile_evt (s : State) (t : Fin 196) (f : TileSt → TileSt) : (s.modTile t f).evt = s.evt := rfl
@[simp] theorem State.modTile_iss (s : State) (t : Fin 196) (f : TileSt → TileSt) : (s.modTile t f).iss = s.iss := rfl
@[simp] theorem State.modTile_free (s : State) (t : Fin 196) (f : TileSt → TileSt) : (s.modTile t f).free = s.free := rfl

/-! ### `State.tickFree` -/

@[simp] theorem State.tickFree_cores (s : State) : (s.tickFree ).cores = s.cores := rfl
@[simp] theorem State.tickFree_tiles (s : State) : (s.tickFree ).tiles = s.tiles := rfl
@[simp] theorem State.tickFree_dies (s : State) : (s.tickFree ).dies = s.dies := rfl
@[simp] theorem State.tickFree_term (s : State) : (s.tickFree ).term = s.term := rfl
@[simp] theorem State.tickFree_mem (s : State) : (s.tickFree ).mem = s.mem := rfl
@[simp] theorem State.tickFree_empty (s : State) : (s.tickFree ).empty = s.empty := rfl
@[simp] theorem State.tickFree_spoilt (s : State) : (s.tickFree ).spoilt = s.spoilt := rfl
@[simp] theorem State.tickFree_cycle (s : State) : (s.tickFree ).cycle = s.cycle := rfl
@[simp] theorem State.tickFree_tscBase (s : State) : (s.tickFree ).tscBase = s.tscBase := rfl
@[simp] theorem State.tickFree_agenda (s : State) : (s.tickFree ).agenda = s.agenda := rfl
@[simp] theorem State.tickFree_evt (s : State) : (s.tickFree ).evt = s.evt := rfl
@[simp] theorem State.tickFree_iss (s : State) : (s.tickFree ).iss = s.iss := rfl

/-! ### `State.after` -/

@[simp] theorem State.after_cores (s : State) (d p : Nat) (i : Instr) (e : EvArg) : (s.after d p i e).cores = s.cores := rfl
@[simp] theorem State.after_tiles (s : State) (d p : Nat) (i : Instr) (e : EvArg) : (s.after d p i e).tiles = s.tiles := rfl
@[simp] theorem State.after_dies (s : State) (d p : Nat) (i : Instr) (e : EvArg) : (s.after d p i e).dies = s.dies := rfl
@[simp] theorem State.after_term (s : State) (d p : Nat) (i : Instr) (e : EvArg) : (s.after d p i e).term = s.term := rfl
@[simp] theorem State.after_mem (s : State) (d p : Nat) (i : Instr) (e : EvArg) : (s.after d p i e).mem = s.mem := rfl
@[simp] theorem State.after_empty (s : State) (d p : Nat) (i : Instr) (e : EvArg) : (s.after d p i e).empty = s.empty := rfl
@[simp] theorem State.after_spoilt (s : State) (d p : Nat) (i : Instr) (e : EvArg) : (s.after d p i e).spoilt = s.spoilt := rfl
@[simp] theorem State.after_cycle (s : State) (d p : Nat) (i : Instr) (e : EvArg) : (s.after d p i e).cycle = s.cycle := rfl
@[simp] theorem State.after_tscBase (s : State) (d p : Nat) (i : Instr) (e : EvArg) : (s.after d p i e).tscBase = s.tscBase := rfl
@[simp] theorem State.after_evt (s : State) (d p : Nat) (i : Instr) (e : EvArg) : (s.after d p i e).evt = s.evt := rfl
@[simp] theorem State.after_iss (s : State) (d p : Nat) (i : Instr) (e : EvArg) : (s.after d p i e).iss = s.iss := rfl
@[simp] theorem State.after_free (s : State) (d p : Nat) (i : Instr) (e : EvArg) : (s.after d p i e).free = s.free := rfl

/-! ### `State.afterWay` -/

@[simp] theorem State.afterWay_cores (s : State) (d p : Nat) (i : Instr) (e : EvArg) : (s.afterWay d p i e).cores = s.cores := rfl
@[simp] theorem State.afterWay_tiles (s : State) (d p : Nat) (i : Instr) (e : EvArg) : (s.afterWay d p i e).tiles = s.tiles := rfl
@[simp] theorem State.afterWay_dies (s : State) (d p : Nat) (i : Instr) (e : EvArg) : (s.afterWay d p i e).dies = s.dies := rfl
@[simp] theorem State.afterWay_term (s : State) (d p : Nat) (i : Instr) (e : EvArg) : (s.afterWay d p i e).term = s.term := rfl
@[simp] theorem State.afterWay_mem (s : State) (d p : Nat) (i : Instr) (e : EvArg) : (s.afterWay d p i e).mem = s.mem := rfl
@[simp] theorem State.afterWay_empty (s : State) (d p : Nat) (i : Instr) (e : EvArg) : (s.afterWay d p i e).empty = s.empty := rfl
@[simp] theorem State.afterWay_spoilt (s : State) (d p : Nat) (i : Instr) (e : EvArg) : (s.afterWay d p i e).spoilt = s.spoilt := rfl
@[simp] theorem State.afterWay_cycle (s : State) (d p : Nat) (i : Instr) (e : EvArg) : (s.afterWay d p i e).cycle = s.cycle := rfl
@[simp] theorem State.afterWay_tscBase (s : State) (d p : Nat) (i : Instr) (e : EvArg) : (s.afterWay d p i e).tscBase = s.tscBase := rfl
@[simp] theorem State.afterWay_evt (s : State) (d p : Nat) (i : Instr) (e : EvArg) : (s.afterWay d p i e).evt = s.evt := rfl
@[simp] theorem State.afterWay_iss (s : State) (d p : Nat) (i : Instr) (e : EvArg) : (s.afterWay d p i e).iss = s.iss := rfl
@[simp] theorem State.afterWay_free (s : State) (d p : Nat) (i : Instr) (e : EvArg) : (s.afterWay d p i e).free = s.free := rfl

/-! ### `State.dropItems` -/

@[simp] theorem State.dropItems_cores (s : State) (p : Item → Bool) : (s.dropItems p).cores = s.cores := rfl
@[simp] theorem State.dropItems_tiles (s : State) (p : Item → Bool) : (s.dropItems p).tiles = s.tiles := rfl
@[simp] theorem State.dropItems_dies (s : State) (p : Item → Bool) : (s.dropItems p).dies = s.dies := rfl
@[simp] theorem State.dropItems_term (s : State) (p : Item → Bool) : (s.dropItems p).term = s.term := rfl
@[simp] theorem State.dropItems_mem (s : State) (p : Item → Bool) : (s.dropItems p).mem = s.mem := rfl
@[simp] theorem State.dropItems_empty (s : State) (p : Item → Bool) : (s.dropItems p).empty = s.empty := rfl
@[simp] theorem State.dropItems_spoilt (s : State) (p : Item → Bool) : (s.dropItems p).spoilt = s.spoilt := rfl
@[simp] theorem State.dropItems_cycle (s : State) (p : Item → Bool) : (s.dropItems p).cycle = s.cycle := rfl
@[simp] theorem State.dropItems_tscBase (s : State) (p : Item → Bool) : (s.dropItems p).tscBase = s.tscBase := rfl
@[simp] theorem State.dropItems_evt (s : State) (p : Item → Bool) : (s.dropItems p).evt = s.evt := rfl
@[simp] theorem State.dropItems_iss (s : State) (p : Item → Bool) : (s.dropItems p).iss = s.iss := rfl
@[simp] theorem State.dropItems_free (s : State) (p : Item → Bool) : (s.dropItems p).free = s.free := rfl

/-! ### `State.setFe` -/

@[simp] theorem State.setFe_cores (s : State) (k : Nat) (full : Bool) : (s.setFe k full).cores = s.cores := rfl
@[simp] theorem State.setFe_tiles (s : State) (k : Nat) (full : Bool) : (s.setFe k full).tiles = s.tiles := rfl
@[simp] theorem State.setFe_dies (s : State) (k : Nat) (full : Bool) : (s.setFe k full).dies = s.dies := rfl
@[simp] theorem State.setFe_term (s : State) (k : Nat) (full : Bool) : (s.setFe k full).term = s.term := rfl
@[simp] theorem State.setFe_mem (s : State) (k : Nat) (full : Bool) : (s.setFe k full).mem = s.mem := rfl
@[simp] theorem State.setFe_spoilt (s : State) (k : Nat) (full : Bool) : (s.setFe k full).spoilt = s.spoilt := rfl
@[simp] theorem State.setFe_cycle (s : State) (k : Nat) (full : Bool) : (s.setFe k full).cycle = s.cycle := rfl
@[simp] theorem State.setFe_tscBase (s : State) (k : Nat) (full : Bool) : (s.setFe k full).tscBase = s.tscBase := rfl
@[simp] theorem State.setFe_agenda (s : State) (k : Nat) (full : Bool) : (s.setFe k full).agenda = s.agenda := rfl
@[simp] theorem State.setFe_evt (s : State) (k : Nat) (full : Bool) : (s.setFe k full).evt = s.evt := rfl
@[simp] theorem State.setFe_iss (s : State) (k : Nat) (full : Bool) : (s.setFe k full).iss = s.iss := rfl
@[simp] theorem State.setFe_free (s : State) (k : Nat) (full : Bool) : (s.setFe k full).free = s.free := rfl

/-! ### `State.markDirty` -/

@[simp] theorem State.markDirty_tiles (s : State) (c : CoreId) (p : Nat) : (s.markDirty c p).tiles = s.tiles := rfl
@[simp] theorem State.markDirty_dies (s : State) (c : CoreId) (p : Nat) : (s.markDirty c p).dies = s.dies := rfl
@[simp] theorem State.markDirty_term (s : State) (c : CoreId) (p : Nat) : (s.markDirty c p).term = s.term := rfl
@[simp] theorem State.markDirty_mem (s : State) (c : CoreId) (p : Nat) : (s.markDirty c p).mem = s.mem := rfl
@[simp] theorem State.markDirty_empty (s : State) (c : CoreId) (p : Nat) : (s.markDirty c p).empty = s.empty := rfl
@[simp] theorem State.markDirty_spoilt (s : State) (c : CoreId) (p : Nat) : (s.markDirty c p).spoilt = s.spoilt := rfl
@[simp] theorem State.markDirty_cycle (s : State) (c : CoreId) (p : Nat) : (s.markDirty c p).cycle = s.cycle := rfl
@[simp] theorem State.markDirty_tscBase (s : State) (c : CoreId) (p : Nat) : (s.markDirty c p).tscBase = s.tscBase := rfl
@[simp] theorem State.markDirty_agenda (s : State) (c : CoreId) (p : Nat) : (s.markDirty c p).agenda = s.agenda := rfl
@[simp] theorem State.markDirty_evt (s : State) (c : CoreId) (p : Nat) : (s.markDirty c p).evt = s.evt := rfl
@[simp] theorem State.markDirty_iss (s : State) (c : CoreId) (p : Nat) : (s.markDirty c p).iss = s.iss := rfl
@[simp] theorem State.markDirty_free (s : State) (c : CoreId) (p : Nat) : (s.markDirty c p).free = s.free := rfl

/-! ### `State.fly` -/

@[simp] theorem State.fly_tiles (s : State) (f : Flight) : (s.fly f).tiles = s.tiles := rfl
@[simp] theorem State.fly_dies (s : State) (f : Flight) : (s.fly f).dies = s.dies := rfl
@[simp] theorem State.fly_term (s : State) (f : Flight) : (s.fly f).term = s.term := rfl
@[simp] theorem State.fly_mem (s : State) (f : Flight) : (s.fly f).mem = s.mem := rfl
@[simp] theorem State.fly_empty (s : State) (f : Flight) : (s.fly f).empty = s.empty := rfl
@[simp] theorem State.fly_spoilt (s : State) (f : Flight) : (s.fly f).spoilt = s.spoilt := rfl
@[simp] theorem State.fly_cycle (s : State) (f : Flight) : (s.fly f).cycle = s.cycle := rfl
@[simp] theorem State.fly_tscBase (s : State) (f : Flight) : (s.fly f).tscBase = s.tscBase := rfl
@[simp] theorem State.fly_agenda (s : State) (f : Flight) : (s.fly f).agenda = s.agenda := rfl
@[simp] theorem State.fly_evt (s : State) (f : Flight) : (s.fly f).evt = s.evt := rfl
@[simp] theorem State.fly_iss (s : State) (f : Flight) : (s.fly f).iss = s.iss := rfl
@[simp] theorem State.fly_free (s : State) (f : Flight) : (s.fly f).free = s.free := rfl

/-! ### `State.putH` -/

@[simp] theorem State.putH_cores (s : State) (k : Fin 8) (i : BitVec 6) (x : Word) (flg : BitVec 6) : (s.putH k i x flg).cores = s.cores := rfl
@[simp] theorem State.putH_tiles (s : State) (k : Fin 8) (i : BitVec 6) (x : Word) (flg : BitVec 6) : (s.putH k i x flg).tiles = s.tiles := rfl
@[simp] theorem State.putH_dies (s : State) (k : Fin 8) (i : BitVec 6) (x : Word) (flg : BitVec 6) : (s.putH k i x flg).dies = s.dies := rfl
@[simp] theorem State.putH_term (s : State) (k : Fin 8) (i : BitVec 6) (x : Word) (flg : BitVec 6) : (s.putH k i x flg).term = s.term := rfl
@[simp] theorem State.putH_mem (s : State) (k : Fin 8) (i : BitVec 6) (x : Word) (flg : BitVec 6) : (s.putH k i x flg).mem = s.mem := rfl
@[simp] theorem State.putH_empty (s : State) (k : Fin 8) (i : BitVec 6) (x : Word) (flg : BitVec 6) : (s.putH k i x flg).empty = s.empty := rfl
@[simp] theorem State.putH_spoilt (s : State) (k : Fin 8) (i : BitVec 6) (x : Word) (flg : BitVec 6) : (s.putH k i x flg).spoilt = s.spoilt := rfl
@[simp] theorem State.putH_cycle (s : State) (k : Fin 8) (i : BitVec 6) (x : Word) (flg : BitVec 6) : (s.putH k i x flg).cycle = s.cycle := rfl
@[simp] theorem State.putH_tscBase (s : State) (k : Fin 8) (i : BitVec 6) (x : Word) (flg : BitVec 6) : (s.putH k i x flg).tscBase = s.tscBase := rfl
@[simp] theorem State.putH_agenda (s : State) (k : Fin 8) (i : BitVec 6) (x : Word) (flg : BitVec 6) : (s.putH k i x flg).agenda = s.agenda := rfl
@[simp] theorem State.putH_evt (s : State) (k : Fin 8) (i : BitVec 6) (x : Word) (flg : BitVec 6) : (s.putH k i x flg).evt = s.evt := rfl
@[simp] theorem State.putH_free (s : State) (k : Fin 8) (i : BitVec 6) (x : Word) (flg : BitVec 6) : (s.putH k i x flg).free = s.free := rfl

/-! ### `State.raise` -/

@[simp] theorem State.raise_cores (s : State) (code sub : BitVec 8) (info : Word) (elem : Nat) : (s.raise code sub info elem).cores = s.cores := rfl
@[simp] theorem State.raise_tiles (s : State) (code sub : BitVec 8) (info : Word) (elem : Nat) : (s.raise code sub info elem).tiles = s.tiles := rfl
@[simp] theorem State.raise_dies (s : State) (code sub : BitVec 8) (info : Word) (elem : Nat) : (s.raise code sub info elem).dies = s.dies := rfl
@[simp] theorem State.raise_term (s : State) (code sub : BitVec 8) (info : Word) (elem : Nat) : (s.raise code sub info elem).term = s.term := rfl
@[simp] theorem State.raise_mem (s : State) (code sub : BitVec 8) (info : Word) (elem : Nat) : (s.raise code sub info elem).mem = s.mem := rfl
@[simp] theorem State.raise_empty (s : State) (code sub : BitVec 8) (info : Word) (elem : Nat) : (s.raise code sub info elem).empty = s.empty := rfl
@[simp] theorem State.raise_spoilt (s : State) (code sub : BitVec 8) (info : Word) (elem : Nat) : (s.raise code sub info elem).spoilt = s.spoilt := rfl
@[simp] theorem State.raise_cycle (s : State) (code sub : BitVec 8) (info : Word) (elem : Nat) : (s.raise code sub info elem).cycle = s.cycle := rfl
@[simp] theorem State.raise_tscBase (s : State) (code sub : BitVec 8) (info : Word) (elem : Nat) : (s.raise code sub info elem).tscBase = s.tscBase := rfl
@[simp] theorem State.raise_agenda (s : State) (code sub : BitVec 8) (info : Word) (elem : Nat) : (s.raise code sub info elem).agenda = s.agenda := rfl
@[simp] theorem State.raise_evt (s : State) (code sub : BitVec 8) (info : Word) (elem : Nat) : (s.raise code sub info elem).evt = s.evt := rfl
@[simp] theorem State.raise_free (s : State) (code sub : BitVec 8) (info : Word) (elem : Nat) : (s.raise code sub info elem).free = s.free := rfl

/-! ### Cores -/

@[simp] theorem State.core_setCore (s : State) (c : CoreId) (x : Core) : (s.setCore c x).core c = x := by
  simp [State.core, State.setCore]
theorem State.core_setCore_ne (s : State) (c d : CoreId) (x : Core) (h : d ≠ c) : (s.setCore c x).core d = s.core d := by
  have h1 : c.val ≠ d.val := fun e => h (Fin.ext e.symm)
  simp [State.core, State.setCore, h1]
@[simp] theorem State.core_modCore (s : State) (c : CoreId) (f : Core → Core) : (s.modCore c f).core c = f (s.core c) :=
  State.core_setCore s c _
theorem State.core_modCore_ne (s : State) (c d : CoreId) (f : Core → Core) (h : d ≠ c) :
    (s.modCore c f).core d = s.core d := State.core_setCore_ne s c d _ h
@[simp] theorem State.core_modPrim (s : State) (c : CoreId) (f : Prim → Prim) :
    (s.modPrim c f).core c = { s.core c with prim := f (s.core c).prim } := State.core_modCore s c _
theorem State.core_modPrim_ne (s : State) (c d : CoreId) (f : Prim → Prim) (h : d ≠ c) :
    (s.modPrim c f).core d = s.core d := State.core_modCore_ne s c d _ h
@[simp] theorem State.core_modScav (s : State) (c : CoreId) (k : Fin 8) (f : Scav → Scav) :
    (s.modScav c k f).core c = { s.core c with scav := (s.core c).scav.set k.val (f (s.core c).scav[k.val]) } :=
  State.core_modCore s c _
theorem State.core_modScav_ne (s : State) (c d : CoreId) (k : Fin 8) (f : Scav → Scav) (h : d ≠ c) :
    (s.modScav c k f).core d = s.core d := State.core_modCore_ne s c d _ h
@[simp] theorem State.core_modCtl (s : State) (c : CoreId) (f : CoreCtl → CoreCtl) :
    (s.modCtl c f).core c = { s.core c with ctl := f (s.core c).ctl } := State.core_modCore s c _
theorem State.core_modCtl_ne (s : State) (c d : CoreId) (f : CoreCtl → CoreCtl) (h : d ≠ c) :
    (s.modCtl c f).core d = s.core d := State.core_modCore_ne s c d _ h
@[simp] theorem State.prim_modPrim (s : State) (c : CoreId) (f : Prim → Prim) : (s.modPrim c f).prim c = f (s.prim c) := by
  simp [State.prim]
@[simp] theorem State.prim_modScav (s : State) (c : CoreId) (k : Fin 8) (f : Scav → Scav) :
    (s.modScav c k f).prim c = s.prim c := by simp [State.prim]
@[simp] theorem State.prim_modCtl (s : State) (c : CoreId) (f : CoreCtl → CoreCtl) : (s.modCtl c f).prim c = s.prim c := by
  simp [State.prim]
@[simp] theorem State.scav_modScav (s : State) (c : CoreId) (k : Fin 8) (f : Scav → Scav) :
    (s.modScav c k f).scav c k = f (s.scav c k) := by simp [State.scav]
theorem State.scav_modScav_ne (s : State) (c : CoreId) (k j : Fin 8) (f : Scav → Scav) (h : j ≠ k) :
    (s.modScav c k f).scav c j = s.scav c j := by
  have h1 : k.val ≠ j.val := fun e => h (Fin.ext e.symm)
  simp [State.scav, h1]
@[simp] theorem State.scav_modPrim (s : State) (c : CoreId) (k : Fin 8) (f : Prim → Prim) :
    (s.modPrim c f).scav c k = s.scav c k := by simp [State.scav]
@[simp] theorem State.scav_modCtl (s : State) (c : CoreId) (k : Fin 8) (f : CoreCtl → CoreCtl) :
    (s.modCtl c f).scav c k = s.scav c k := by simp [State.scav]

/-! ### Cores under the updates of other fields -/


@[simp] theorem State.core_modTerm (s : State) (f : Terminus → Terminus) (c : CoreId) : (s.modTerm f).core c = s.core c := rfl
@[simp] theorem State.prim_modTerm (s : State) (f : Terminus → Terminus) (c : CoreId) : (s.modTerm f).prim c = s.prim c := rfl
@[simp] theorem State.scav_modTerm (s : State) (f : Terminus → Terminus) (c : CoreId) (j : Fin 8) : (s.modTerm f).scav c j = s.scav c j := rfl
@[simp] theorem State.sbt_modTerm (s : State) (f : Terminus → Terminus) (c : CoreId) : (s.modTerm f).sbt c = s.sbt c := rfl
@[simp] theorem State.core_modSvc (s : State) (f : Service → Service) (c : CoreId) : (s.modSvc f).core c = s.core c := rfl
@[simp] theorem State.prim_modSvc (s : State) (f : Service → Service) (c : CoreId) : (s.modSvc f).prim c = s.prim c := rfl
@[simp] theorem State.scav_modSvc (s : State) (f : Service → Service) (c : CoreId) (j : Fin 8) : (s.modSvc f).scav c j = s.scav c j := rfl
@[simp] theorem State.sbt_modSvc (s : State) (f : Service → Service) (c : CoreId) : (s.modSvc f).sbt c = s.sbt c := rfl
@[simp] theorem State.core_modTile (s : State) (t : Fin 196) (f : TileSt → TileSt) (c : CoreId) : (s.modTile t f).core c = s.core c := rfl
@[simp] theorem State.prim_modTile (s : State) (t : Fin 196) (f : TileSt → TileSt) (c : CoreId) : (s.modTile t f).prim c = s.prim c := rfl
@[simp] theorem State.scav_modTile (s : State) (t : Fin 196) (f : TileSt → TileSt) (c : CoreId) (j : Fin 8) : (s.modTile t f).scav c j = s.scav c j := rfl
@[simp] theorem State.sbt_modTile (s : State) (t : Fin 196) (f : TileSt → TileSt) (c : CoreId) : (s.modTile t f).sbt c = s.sbt c := rfl
@[simp] theorem State.core_tickFree (s : State) (c : CoreId) : (s.tickFree ).core c = s.core c := rfl
@[simp] theorem State.prim_tickFree (s : State) (c : CoreId) : (s.tickFree ).prim c = s.prim c := rfl
@[simp] theorem State.scav_tickFree (s : State) (c : CoreId) (j : Fin 8) : (s.tickFree ).scav c j = s.scav c j := rfl
@[simp] theorem State.sbt_tickFree (s : State) (c : CoreId) : (s.tickFree ).sbt c = s.sbt c := rfl
@[simp] theorem State.core_after (s : State) (d p : Nat) (i : Instr) (e : EvArg) (c : CoreId) : (s.after d p i e).core c = s.core c := rfl
@[simp] theorem State.prim_after (s : State) (d p : Nat) (i : Instr) (e : EvArg) (c : CoreId) : (s.after d p i e).prim c = s.prim c := rfl
@[simp] theorem State.scav_after (s : State) (d p : Nat) (i : Instr) (e : EvArg) (c : CoreId) (j : Fin 8) : (s.after d p i e).scav c j = s.scav c j := rfl
@[simp] theorem State.sbt_after (s : State) (d p : Nat) (i : Instr) (e : EvArg) (c : CoreId) : (s.after d p i e).sbt c = s.sbt c := rfl
@[simp] theorem State.core_afterWay (s : State) (d p : Nat) (i : Instr) (e : EvArg) (c : CoreId) : (s.afterWay d p i e).core c = s.core c := rfl
@[simp] theorem State.prim_afterWay (s : State) (d p : Nat) (i : Instr) (e : EvArg) (c : CoreId) : (s.afterWay d p i e).prim c = s.prim c := rfl
@[simp] theorem State.scav_afterWay (s : State) (d p : Nat) (i : Instr) (e : EvArg) (c : CoreId) (j : Fin 8) : (s.afterWay d p i e).scav c j = s.scav c j := rfl
@[simp] theorem State.sbt_afterWay (s : State) (d p : Nat) (i : Instr) (e : EvArg) (c : CoreId) : (s.afterWay d p i e).sbt c = s.sbt c := rfl
@[simp] theorem State.core_dropItems (s : State) (p : Item → Bool) (c : CoreId) : (s.dropItems p).core c = s.core c := rfl
@[simp] theorem State.prim_dropItems (s : State) (p : Item → Bool) (c : CoreId) : (s.dropItems p).prim c = s.prim c := rfl
@[simp] theorem State.scav_dropItems (s : State) (p : Item → Bool) (c : CoreId) (j : Fin 8) : (s.dropItems p).scav c j = s.scav c j := rfl
@[simp] theorem State.sbt_dropItems (s : State) (p : Item → Bool) (c : CoreId) : (s.dropItems p).sbt c = s.sbt c := rfl
@[simp] theorem State.core_setFe (s : State) (k : Nat) (full : Bool) (c : CoreId) : (s.setFe k full).core c = s.core c := rfl
@[simp] theorem State.prim_setFe (s : State) (k : Nat) (full : Bool) (c : CoreId) : (s.setFe k full).prim c = s.prim c := rfl
@[simp] theorem State.scav_setFe (s : State) (k : Nat) (full : Bool) (c : CoreId) (j : Fin 8) : (s.setFe k full).scav c j = s.scav c j := rfl
@[simp] theorem State.sbt_setFe (s : State) (k : Nat) (full : Bool) (c : CoreId) : (s.setFe k full).sbt c = s.sbt c := rfl
@[simp] theorem State.core_putH (s : State) (k : Fin 8) (i : BitVec 6) (x : Word) (flg : BitVec 6) (c : CoreId) : (s.putH k i x flg).core c = s.core c := rfl
@[simp] theorem State.prim_putH (s : State) (k : Fin 8) (i : BitVec 6) (x : Word) (flg : BitVec 6) (c : CoreId) : (s.putH k i x flg).prim c = s.prim c := rfl
@[simp] theorem State.scav_putH (s : State) (k : Fin 8) (i : BitVec 6) (x : Word) (flg : BitVec 6) (c : CoreId) (j : Fin 8) : (s.putH k i x flg).scav c j = s.scav c j := rfl
@[simp] theorem State.sbt_putH (s : State) (k : Fin 8) (i : BitVec 6) (x : Word) (flg : BitVec 6) (c : CoreId) : (s.putH k i x flg).sbt c = s.sbt c := rfl
@[simp] theorem State.core_raise (s : State) (code sub : BitVec 8) (info : Word) (elem : Nat) (c : CoreId) : (s.raise code sub info elem).core c = s.core c := rfl
@[simp] theorem State.prim_raise (s : State) (code sub : BitVec 8) (info : Word) (elem : Nat) (c : CoreId) : (s.raise code sub info elem).prim c = s.prim c := rfl
@[simp] theorem State.scav_raise (s : State) (code sub : BitVec 8) (info : Word) (elem : Nat) (c : CoreId) (j : Fin 8) : (s.raise code sub info elem).scav c j = s.scav c j := rfl
@[simp] theorem State.sbt_raise (s : State) (code sub : BitVec 8) (info : Word) (elem : Nat) (c : CoreId) : (s.raise code sub info elem).sbt c = s.sbt c := rfl

end Sys2Proof.Machine
end

