-- ==== Sys2Proof/Laws/Frame.lean ====
section
/-! SUPPORT. What the shared operations over operands, results, traps and waits may change: each keeps the register frame. -/

namespace Sys2Proof.Machine

open Sys2Proof

theorem State.registerFrame_refl (s : State) : s.registerFrame s :=
  ⟨⟨rfl, fun _ _ => rfl, rfl, rfl⟩, rfl, rfl, fun _ => rfl⟩

theorem State.registerFrame_trans {s t u : State} (h : s.registerFrame t) (g : t.registerFrame u) : s.registerFrame u := by
  obtain ⟨⟨h1, h2, h3, h4⟩, h5, h6, h7⟩ := h
  obtain ⟨⟨g1, g2, g3, g4⟩, g5, g6, g7⟩ := g
  rw [h3] at g2 g5 g6 g7
  refine ⟨⟨?_, ?_, ?_, ?_⟩, ?_, ?_, ?_⟩
  · rw [g1, h1]
  · intro d hd; rw [g2 d hd, h2 d hd]
  · rw [g3, h3]
  · rw [g4, h4]
  · show u.core _ = _; rw [g5, h5]
  · show u.prim _ = _; rw [g6, h6]
  · intro k; show u.scav _ _ = _; rw [g7 k, h7 k]

/-- A change of the issue context alone. -/
theorem State.registerFrame_iss (s : State) (i : Issue) (h1 : i.core = s.iss.core) (h2 : i.thr = s.iss.thr) :
    s.registerFrame { s with iss := i } :=
  ⟨⟨rfl, fun _ _ => rfl, h1, h2⟩, rfl, rfl, fun _ => rfl⟩

/-- A step made due. -/
theorem State.registerFrame_after (s : State) (d p : Nat) (i : Instr) (e : EvArg) : s.registerFrame (s.after d p i e) :=
  ⟨⟨rfl, fun _ _ => rfl, rfl, rfl⟩, rfl, rfl, fun _ => rfl⟩

/-- A change of the primary's results. -/
theorem State.registerFrame_modPrim (s : State) (f : Prim → Prim) (h : ∀ p : Prim, p.onlyResults (f p)) :
    s.registerFrame (s.modPrim s.iss.core f) := by
  refine ⟨⟨rfl, fun d hd => State.core_modPrim_ne s _ d f hd, rfl, rfl⟩, ?_, ?_, ?_⟩
  · show State.core _ _ = _; rw [State.core_modPrim]
  · show State.prim _ _ = _; rw [State.prim_modPrim]; exact h _
  · intro k; rw [State.scav_modPrim]; exact rfl

/-- A change of a scavenger's results. -/
theorem State.registerFrame_modScav (s : State) (k : Fin 8) (f : Scav → Scav) (h : ∀ x : Scav, x.onlyResults (f x)) :
    s.registerFrame (s.modScav s.iss.core k f) := by
  refine ⟨⟨rfl, fun d hd => State.core_modScav_ne s _ d k f hd, rfl, rfl⟩, ?_, ?_, ?_⟩
  · show State.core _ _ = _; rw [State.core_modScav]
  · rw [State.prim_modScav]; exact rfl
  · intro j
    by_cases hj : j = k
    · subst hj; show State.scav _ _ _ = _; rw [State.scav_modScav]; exact h _
    · rw [State.scav_modScav_ne s _ k j f hj]; exact rfl

/-! ## Results, traps, waits -/

theorem State.registerFrame_fly (s : State) (f : Flight) : s.registerFrame (s.fly f) :=
  s.registerFrame_modPrim _ fun _ => rfl

theorem State.registerFrame_putH (s : State) (k : Fin 8) (i : BitVec 6) (x : Word) (g : BitVec 6) :
    s.registerFrame (s.putH k i x g) := s.registerFrame_iss _ rfl rfl

theorem State.registerFrame_putS (s : State) (op : Op) (l : Nat) (g : BitVec 6) (x : Word) : s.registerFrame (s.putS op l g x) := by
  unfold State.putS; split
  · exact s.registerFrame_fly _
  · exact s.registerFrame_putH _ _ _ _

theorem State.registerFrame_putP (s : State) (d : BitVec 6) (g : BitVec 6) (b : Bool) : s.registerFrame (s.putP d g b) := by
  unfold State.putP; split
  · exact s.registerFrame_fly _
  · exact s.registerFrame_putH _ _ _ _

theorem State.registerFrame_putV (s : State) (op : Op) (l : Nat) (g : BitVec 6) (x : Vec) : s.registerFrame (s.putV op l g x) :=
  s.registerFrame_fly _

theorem State.registerFrame_putK (s : State) (op : Op) (l : Nat) (g : BitVec 6) (x : Mask) : s.registerFrame (s.putK op l g x) :=
  s.registerFrame_fly _

theorem State.registerFrame_putLong (s : State) (op : Op) (l : Nat) (g : BitVec 6) (x : Word) :
    s.registerFrame (s.putLong op l g x) := by
  unfold State.putLong; split
  · exact s.registerFrame_putS _ _ _ _
  · split
    · exact s.registerFrame_putH _ _ _ _
    · exact State.registerFrame_trans (s.registerFrame_iss { s.iss with lands := true } rfl rfl) (State.registerFrame_after _ _ _ _ _)

theorem State.registerFrame_raise (s : State) (c b : BitVec 8) (i : Word) (e : Nat) : s.registerFrame (s.raise c b i e) :=
  s.registerFrame_iss _ rfl rfl

theorem State.registerFrame_markWaiting (s : State) (m : Bool) (b : Nat) (c : BitVec 8) (h : Hold) :
    s.registerFrame (s.markWaiting m b c h) := by
  unfold State.markWaiting
  dsimp only
  split
  · exact s.registerFrame_iss _ rfl rfl
  · exact State.registerFrame_trans (s.registerFrame_iss _ rfl rfl)
      (State.registerFrame_modScav { s with iss := _ } _ _ fun _ => rfl)

theorem State.registerFrame_expire (s : State) (c : BitVec 8) (i : Nat) : s.registerFrame (s.expire c i) :=
  s.registerFrame_iss _ rfl rfl

theorem State.registerFrame_block (s : State) (m : Bool) (b : Nat) (c : BitVec 8) (i : Nat) : s.registerFrame (s.block m b c i) := by
  unfold State.block; split
  · exact s.registerFrame_expire _ _
  · exact s.registerFrame_markWaiting _ _ _ _

/-! ## Operands -/

theorem State.registerFrame_returnCredit (s : State) (c : CoreId) (t : Thr) (d : Nat) : s.registerFrame (s.returnCredit c t d) := by
  unfold State.returnCredit; split
  · exact s.registerFrame_after _ _ _ _
  · exact s.registerFrame_refl

theorem State.registerFrame_popPrim (s : State) (d : Nat) : s.registerFrame (s.popPrim s.iss.core d).2 := by
  unfold State.popPrim; dsimp only; split
  · exact s.registerFrame_refl
  · dsimp only
    refine State.registerFrame_trans ?_ (State.registerFrame_returnCredit _ _ _ _)
    exact s.registerFrame_modPrim _ fun _ => rfl

theorem State.registerFrame_popScav (s : State) (k : Fin 8) (d : Nat) : s.registerFrame (s.popScav s.iss.core k d).2 := by
  unfold State.popScav; dsimp only; split
  · exact s.registerFrame_refl
  · dsimp only
    refine State.registerFrame_trans ?_ (State.registerFrame_returnCredit _ _ _ _)
    exact s.registerFrame_modScav _ _ fun _ => rfl

theorem State.registerFrame_srcS (s : State) (x : BitVec 6) (l : Bool) : s.registerFrame (s.srcS x l).2 := by
  unfold State.srcS; split
  · dsimp only; split
    · exact s.registerFrame_refl
    · split
      · exact s.registerFrame_popPrim _
      · exact s.registerFrame_refl
  · split
    · exact s.registerFrame_refl
    · exact s.registerFrame_popScav _ _

theorem State.registerFrame_srcAB (s : State) (o : Op) : s.registerFrame (s.srcAB o).2.2 :=
  State.registerFrame_trans (s.registerFrame_srcS _ _) (State.registerFrame_srcS _ _ _)

theorem State.registerFrame_srcABC (s : State) (o : Op) : s.registerFrame (s.srcABC o).2.2.2 :=
  State.registerFrame_trans (s.registerFrame_srcAB o) (State.registerFrame_srcS _ _ _)

theorem State.registerFrame_srcN (s : State) (o : Op) (n : Nat) : s.registerFrame (s.srcN o n).2.2.2 := by
  unfold State.srcN; split
  · exact s.registerFrame_srcS _ _
  · split
    · exact s.registerFrame_srcAB o
    · exact s.registerFrame_srcABC o

theorem State.registerFrame_srcV (s : State) (x : BitVec 6) (l h : Bool) (w : Nat) : s.registerFrame (s.srcV x l h w).2 := by
  unfold State.srcV; dsimp only; split
  · exact s.registerFrame_refl
  · split
    · exact s.registerFrame_refl
    · split
      · exact s.registerFrame_popPrim _
      · exact s.registerFrame_refl

theorem State.registerFrame_srcE (s : State) (o : Op) (n w : Nat) : s.registerFrame (s.srcE o n w).2.2.2 := by
  unfold State.srcE; dsimp only
  split <;> split
  · exact State.registerFrame_trans (s.registerFrame_srcV _ _ _ _)
      (State.registerFrame_trans (State.registerFrame_srcV _ _ _ _ _) (State.registerFrame_srcV _ _ _ _ _))
  · exact State.registerFrame_trans (s.registerFrame_srcV _ _ _ _) (State.registerFrame_srcV _ _ _ _ _)
  · exact State.registerFrame_trans (s.registerFrame_srcV _ _ _ _) (State.registerFrame_srcV _ _ _ _ _)
  · exact s.registerFrame_srcV _ _ _ _

/-! ## The predicate, the pops, floating point -/

/-- What follows a state that keeps the frame. -/
theorem State.registerFrame_withPops (s : State) (op : Op) (f : State → State) (h : s.registerFrame (f s)) :
    s.registerFrame (s.withPops op f) := by
  unfold State.withPops; split
  · exact h
  · split
    · exact s.registerFrame_raise _ _ _ _
    · split
      · exact s.registerFrame_block _ _ _ _
      · exact h

theorem State.registerFrame_performBare (op : Op) (s t : State) (f : State → State) (h : s.registerFrame (f s))
    (e : performBare op s f = .next t) : s.registerFrame t := by
  unfold performBare at e
  cases e
  split
  · exact h
  · exact s.registerFrame_refl

theorem State.registerFrame_perform (op : Op) (s t : State) (f : State → State) (h : s.registerFrame (f s))
    (e : perform op s f = .next t) : s.registerFrame t :=
  State.registerFrame_performBare op s t _ (s.registerFrame_withPops op f h) e

theorem State.registerFrame_orFpstat (s : State) (g : BitVec 6) : s.registerFrame (s.orFpstat g) := by
  unfold State.orFpstat; split
  · exact s.registerFrame_modPrim _ fun _ => rfl
  · exact s.registerFrame_modScav _ _ fun _ => rfl

/-- Values that an operation owes back stand in the issue context. -/
theorem State.registerFrame_oweBack (s0 s : State) : s.registerFrame (State.oweBack s0 s) := s.registerFrame_iss _ rfl rfl

theorem State.registerFrame_finishFp (s0 s : State) (g : BitVec 6) (f : State → State) (p : s0.registerFrame s)
    (h : s0.registerFrame (f s)) : s0.registerFrame (State.finishFp s0 s g f) := by
  unfold State.finishFp; dsimp only; split
  · exact State.registerFrame_trans p (State.registerFrame_trans (State.registerFrame_oweBack s0 s)
      (State.registerFrame_trans (State.registerFrame_orFpstat _ _) (State.registerFrame_raise _ _ _ _ _)))
  · exact h

theorem State.registerFrame_forfeit (s : State) (d : Bool) : s.registerFrame (s.forfeit d) := by
  unfold State.forfeit; split
  · exact s.registerFrame_refl
  · split
    · exact s.registerFrame_modScav _ _ fun _ => rfl
    · exact s.registerFrame_refl

end Sys2Proof.Machine
end

