-- ==== Sys2Proof/Laws/Memory.lean ====
section
/-! SUPPORT. Memory: a read after a write, the canonical form of the bytes and of the empty doublewords under every operation that
writes them. -/

namespace Sys2Proof.Machine

open Sys2Proof

/-! ## The canonical form -/

theorem Memory.wf_cons (k : Nat) (b : Byte) (m : List Host.Cell) :
    Memory.wf ((k, b) :: m) = true ↔ b ≠ 0 ∧ Memory.wf m = true ∧ ∀ q ∈ m, k < q.1 := by
  induction m generalizing k b with
  | nil => simp [Memory.wf]
  | cons q m ih =>
    obtain ⟨k', b'⟩ := q
    simp only [Memory.wf, Bool.and_eq_true, bne_iff_ne, ne_eq, decide_eq_true_eq]
    constructor
    · rintro ⟨⟨h1, h2⟩, h3⟩
      refine ⟨h1, h3, ?_⟩
      intro q hq
      rcases List.mem_cons.mp hq with rfl | hq
      · exact h2
      · exact Nat.lt_trans h2 (((ih k' b').mp h3).2.2 q hq)
    · rintro ⟨h1, h2, h3⟩
      exact ⟨⟨h1, h3 (k', b') (by simp)⟩, h2⟩

/-- A key below every listed one reads as an unlisted key. -/
theorem Memory.get_of_lt (m : List Host.Cell) (a : Nat) (h : ∀ q ∈ m, a < q.1) : Memory.get m a = 0 := by
  cases m with
  | nil => rfl
  | cons q m =>
    obtain ⟨k, b⟩ := q
    have := h (k, b) (by simp)
    simp_all [Memory.get]

/-- Every key of a written memory is the written key or was listed. -/
theorem Memory.key_set (m : List Host.Cell) (a : Nat) (b : Byte) :
    ∀ q ∈ Memory.set m a b, q.1 = a ∨ q ∈ m := by
  induction m with
  | nil =>
    intro q hq
    unfold Memory.set at hq
    split at hq <;> simp_all
  | cons p m ih =>
    obtain ⟨k, c⟩ := p
    intro q hq
    simp only [Memory.set] at hq
    split at hq
    · split at hq
      · exact .inr hq
      · rcases List.mem_cons.mp hq with rfl | h
        · exact .inl rfl
        · exact .inr h
    · split at hq
      · split at hq
        · exact .inr (List.mem_cons_of_mem _ hq)
        · rcases List.mem_cons.mp hq with rfl | h
          · exact .inl rfl
          · exact .inr (List.mem_cons_of_mem _ h)
      · rcases List.mem_cons.mp hq with rfl | h
        · exact .inr (by simp)
        · rcases ih q h with h | h
          · exact .inl h
          · exact .inr (List.mem_cons_of_mem _ h)

/-- A write keeps the canonical form. -/
theorem Memory.wf_set (m : List Host.Cell) (a : Nat) (b : Byte) (h : Memory.wf m = true) :
    Memory.wf (Memory.set m a b) = true := by
  induction m with
  | nil =>
    unfold Memory.set
    split
    · rfl
    · simp_all [Memory.wf]
  | cons p m ih =>
    obtain ⟨k, c⟩ := p
    have hc := (Memory.wf_cons k c m).mp h
    simp only [Memory.set]
    split
    · next hk =>
      split
      · exact h
      · next hb =>
        refine (Memory.wf_cons a b _).mpr ⟨hb, h, ?_⟩
        intro q hq
        rcases List.mem_cons.mp hq with rfl | hq
        · exact hk
        · exact Nat.lt_trans hk (hc.2.2 q hq)
    · next hk =>
      split
      · next e =>
        subst e
        split
        · exact hc.2.1
        · next hb => exact (Memory.wf_cons a b m).mpr ⟨hb, hc.2.1, hc.2.2⟩
      · next e =>
        refine (Memory.wf_cons k c _).mpr ⟨hc.1, ih hc.2.1, ?_⟩
        intro q hq
        rcases Memory.key_set m a b q hq with h1 | h1
        · omega
        · exact hc.2.2 q h1

/-- A filter keeps the canonical form. -/
theorem Memory.wf_filter (m : List Host.Cell) (p : Host.Cell → Bool) (h : Memory.wf m = true) :
    Memory.wf (m.filter p) = true := by
  induction m with
  | nil => rfl
  | cons q m ih =>
    obtain ⟨k, c⟩ := q
    have hc := (Memory.wf_cons k c m).mp h
    rw [List.filter_cons]
    split
    · exact (Memory.wf_cons k c _).mpr ⟨hc.1, ih hc.2.1, fun q hq => hc.2.2 q (List.mem_filter.mp hq).1⟩
    · exact ih hc.2.1

/-! ## A read after a write -/

theorem Memory.get_set_same (m : List Host.Cell) (a : Nat) (b : Byte) (h : Memory.wf m = true) :
    Memory.get (Memory.set m a b) a = b := by
  induction m with
  | nil =>
    unfold Memory.set
    split <;> simp_all [Memory.get]
  | cons p m ih =>
    obtain ⟨k, c⟩ := p
    have hc := (Memory.wf_cons k c m).mp h
    simp only [Memory.set]
    split
    · next hk =>
      split
      · simp_all [Memory.get]
      · simp [Memory.get]
    · next hk =>
      split
      · next e =>
        subst e
        split
        · next hb => rw [hb]; exact Memory.get_of_lt m a hc.2.2
        · simp [Memory.get]
      · next e => simp only [Memory.get, hk, e, if_false]; exact ih hc.2.1

theorem Memory.get_set_ne (m : List Host.Cell) (a x : Nat) (b : Byte) (h : Memory.wf m = true) (hx : x ≠ a) :
    Memory.get (Memory.set m a b) x = Memory.get m x := by
  induction m with
  | nil =>
    unfold Memory.set
    split
    · rfl
    · simp [Memory.get, hx]
  | cons p m ih =>
    obtain ⟨k, c⟩ := p
    have hc := (Memory.wf_cons k c m).mp h
    simp only [Memory.set]
    split
    · next hk =>
      split
      · rfl
      · simp only [Memory.get, hx, if_false]
        split <;> rename_i h1
        · have : x < k := by omega
          simp [this]
        · rfl
    · next hk =>
      split
      · next e =>
        subst e
        have hm : x < a → Memory.get m x = 0 :=
          fun hlt => Memory.get_of_lt m x fun q hq => Nat.lt_trans hlt (hc.2.2 q hq)
        split
        · simp only [Memory.get, hx, if_false]
          split
          · next hlt => exact hm hlt
          · rfl
        · simp only [Memory.get, hx, if_false]
      · next e =>
        simp only [Memory.get]
        rw [ih hc.2.1]

/-! ## The empty doublewords -/

theorem rising_cons (a : Nat) (l : List Nat) : rising (a :: l) = true ↔ rising l = true ∧ ∀ q ∈ l, a < q := by
  induction l generalizing a with
  | nil => simp [rising]
  | cons b l ih =>
    simp only [rising, Bool.and_eq_true, decide_eq_true_eq]
    constructor
    · rintro ⟨h1, h2⟩
      refine ⟨h2, fun q hq => ?_⟩
      rcases List.mem_cons.mp hq with rfl | hq
      · exact h1
      · exact Nat.lt_trans h1 (((ih b).mp h2).2 q hq)
    · rintro ⟨h1, h2⟩
      exact ⟨h2 b (by simp), h1⟩

theorem mem_insertNat (l : List Nat) (a q : Nat) : q ∈ insertNat l a ↔ q = a ∨ q ∈ l := by
  induction l with
  | nil => simp [insertNat]
  | cons b l ih =>
    simp only [insertNat]
    split
    · simp
    · split
      · next h => subst h; simp
      · simp only [List.mem_cons, ih]; exact or_left_comm

theorem rising_insertNat (l : List Nat) (a : Nat) (h : rising l = true) : rising (insertNat l a) = true := by
  induction l with
  | nil => rfl
  | cons b l ih =>
    have hc := (rising_cons b l).mp h
    simp only [insertNat]
    split
    · next hk =>
      refine (rising_cons a _).mpr ⟨h, fun q hq => ?_⟩
      rcases List.mem_cons.mp hq with rfl | hq
      · exact hk
      · exact Nat.lt_trans hk (hc.2 q hq)
    · split
      · exact h
      · next h1 h2 =>
        refine (rising_cons b _).mpr ⟨ih hc.1, fun q hq => ?_⟩
        rcases (mem_insertNat l a q).mp hq with rfl | hq
        · omega
        · exact hc.2 q hq

theorem rising_filter (l : List Nat) (p : Nat → Bool) (h : rising l = true) : rising (l.filter p) = true := by
  induction l with
  | nil => rfl
  | cons b l ih =>
    have hc := (rising_cons b l).mp h
    rw [List.filter_cons]
    split
    · exact (rising_cons b _).mpr ⟨ih hc.1, fun q hq => hc.2 q (List.mem_filter.mp hq).1⟩
    · exact ih hc.1

theorem mem_eraseNat (l : List Nat) (a q : Nat) (h : q ∈ eraseNat l a) : q ∈ l := by
  induction l with
  | nil => simp [eraseNat] at h
  | cons b l ih =>
    simp only [eraseNat] at h
    split at h
    · exact List.mem_cons_of_mem _ h
    · rcases List.mem_cons.mp h with rfl | h
      · simp
      · exact List.mem_cons_of_mem _ (ih h)

theorem rising_eraseNat (l : List Nat) (a : Nat) (h : rising l = true) : rising (eraseNat l a) = true := by
  induction l with
  | nil => rfl
  | cons b l ih =>
    have hc := (rising_cons b l).mp h
    simp only [eraseNat]
    split
    · exact hc.1
    · exact (rising_cons b _).mpr ⟨ih hc.1, fun q hq => hc.2 q (mem_eraseNat l a q hq)⟩

/-! ## The state's operations keep the form -/

theorem State.memWf_iff (s : State) : s.memWf = true ↔ Memory.wf s.mem = true ∧ rising s.empty = true := by
  simp [State.memWf]

/-- Every memory operation keeps the form: setting a full-empty bit. -/
theorem State.memWf_setFe (s : State) (k : Nat) (full : Bool) (h : s.memWf = true) : (s.setFe k full).memWf = true := by
  obtain ⟨h1, h2⟩ := (State.memWf_iff s).mp h
  refine (State.memWf_iff _).mpr ⟨h1, ?_⟩
  cases full
  · exact rising_insertNat _ _ h2
  · exact rising_eraseNat _ _ h2

/-- Writing one byte of a scratchpad. -/
theorem State.memWf_writeProgByte (s : State) (c : CoreId) (t : Vector Word 64) (fe : Bool) (p : Nat) (b : Byte)
    (h : s.memWf = true) : (s.writeProgByte c t fe p b).memWf = true := by
  have hw : ({ s with mem := Memory.set s.mem (scratchKey c (physAddr t p)) b } : State).memWf = true :=
    (State.memWf_iff _).mpr ⟨Memory.wf_set _ _ _ ((State.memWf_iff s).mp h).1, ((State.memWf_iff s).mp h).2⟩
  unfold State.writeProgByte
  cases fe
  · exact hw
  · exact State.memWf_setFe _ _ _ hw

/-- Writing bytes from a program address up. -/
theorem State.memWf_writeProg (s : State) (c : CoreId) (t : Vector Word 64) (fe : Bool) (p : Nat) (bs : List Byte)
    (h : s.memWf = true) : (s.writeProg c t fe p bs).memWf = true := by
  induction bs generalizing s p with
  | nil => exact h
  | cons b bs ih => exact ih _ _ (State.memWf_writeProgByte s c t fe p b h)

/-- Writing bytes from a key up. -/
theorem State.memWf_writeKey (s : State) (k : Nat) (bs : List Byte) (h : s.memWf = true) : (s.writeKey k bs).memWf = true := by
  induction bs generalizing s k with
  | nil => exact h
  | cons b bs ih =>
    exact ih _ _ ((State.memWf_iff _).mpr ⟨Memory.wf_set _ _ _ ((State.memWf_iff s).mp h).1, ((State.memWf_iff s).mp h).2⟩)

end Sys2Proof.Machine
end

