-- ==== Sys2Proof/Laws/Ops.lean ====
section
/-! SUPPORT. What the shared operations do: when an operation is performed, when it is not, and what a wait and a checked
access answer. -/

namespace Sys2Proof.Machine

open Sys2Proof

/-- With its predicate true and its pops served, an operation is performed. -/
theorem perform_of_runs {s : State} {op : Op} (h : s.runs op = true) (f : State → State) : perform op s f = .next (f s) := by
  simp only [State.runs, Bool.and_eq_true, State.popsServed, List.all_eq_true, decide_eq_true_eq] at h
  obtain ⟨hp, hq⟩ := h
  simp only [perform, performBare, hp, if_true, State.withPops]
  cases hd : popDirs op with
  | nil => rfl
  | cons d l =>
    have h1 : (d :: l).find? (fun d => (s.neighbour s.iss.core d).isNone) = none := by
      rw [List.find?_eq_none]
      intro x hx
      have := (hq x (hd ▸ hx)).1
      cases hn : s.neighbour s.iss.core x <;> simp_all
    have h2 : (d :: l).find? (fun x => decide (s.queued s.iss.core s.iss.thr x < (d :: l).count x)) = none := by
      rw [List.find?_eq_none]
      intro x hx
      have := (hq x (hd ▸ hx)).2
      rw [hd] at this
      simp only [decide_eq_true_eq]
      omega
    simp only [h1, h2]

/-- With its predicate true, an operation without pop checks is performed. -/
theorem performBare_of_holds {s : State} {op : Op} (h : s.holds op = true) (f : State → State) :
    performBare op s f = .next (f s) := by simp [performBare, h]

/-- With its predicate false, an operation changes nothing (R18). -/
theorem performBare_of_not_holds {s : State} {op : Op} (h : s.holds op = false) (f : State → State) :
    performBare op s f = .next s := by simp [performBare, h]

/-- An operation that runs has its predicate true. -/
theorem State.holds_of_runs {s : State} {op : Op} (h : s.runs op = true) : s.holds op = true := by
  simp only [State.runs, Bool.and_eq_true] at h
  exact h.1

/-- An access that passes its checks is performed. -/
theorem State.checked_none (s : State) (f : State → State) : s.checked none f = f s := rfl

/-- An access that fails a check raises it. -/
theorem State.checked_some (s : State) (b : Bad) (f : State → State) : s.checked (some b) f = s.raise b.code b.sub b.addr b.elem := rfl

/-- An access that passes its checks claims its bank ports and is performed. -/
theorem State.access_none (s : State) (n : Nat) (es : List Elem) (f : State → State) :
    s.access none n es f = f (s.claimPorts n (es.map fun e => e.2.toNat)) := rfl

end Sys2Proof.Machine
end

