-- ==== Sys2Proof/Tests/Slice0.lean ====
section
/-! SUPPORT. Tests: words written out from the spec's encoding tables, terms that are not well-formed, single steps with results worked out
from the spec, and witnesses of the hypotheses of the statements in Certificates/Slice0/Obligations.lean. -/

set_option Elab.async false

namespace Sys2Proof.Tests

open Sys2Proof Sys2Proof.Machine

/-! ## Decoding -/

/-- Each word list decodes to its operation, and the operation encodes to the words. -/
def codes (l : List (List IWord × Instr)) : Bool := l.all fun p => decodeFirst p.1 == some p.2 && encode p.2 == p.1

/-- The same for words of which the first may begin a bundle. -/
def codesAny (l : List (List IWord × Instr)) : Bool :=
  l.all fun p => decodeFirst p.1 == some p.2 && encodeAt (startsBundle (p.1.headD 0)) p.2 == p.1

theorem test_words_branches : codes [
  ([0x42260005, 0x8010044B], .br ⟨false, .none, 8, false, true, 12, 18, 0, 0, false, false, false, 1, 0x000, 0x801004⟩),
  ([0x86C98205, 0x8020077F], .brp ⟨false, .none, 11, true, false, 19, 31, 0, 0, false, false, false, 2, 0x000, 0x802007⟩),
  ([0xC7AD0405, 0x80300AB3], .loop ⟨false, .none, 14, true, true, 26, 44, 0, 0, false, false, false, 3, 0x000, 0x80300A⟩),
  ([0x0850800D, 0x895449E7], .bri ⟨false, .none, 1, false, false, 33, 57, 9, 17, true, false, false, 0, 0x895, 0x0⟩),
  ([0x4934020D, 0x8050101B], .call ⟨false, .none, 4, false, true, 40, 6, 0, 0, true, false, false, 1, 0x000, 0x805010⟩),
  ([0x8DD7840D, 0x8DFDEB4F], .calli ⟨false, .none, 7, true, false, 47, 19, 43, 55, true, false, false, 2, 0x8DF, 0x0⟩),
  ([0xCEBB060D, 0x9042BC83], .ret ⟨false, .none, 10, true, true, 54, 32, 60, 10, true, false, false, 3, 0x904, 0x0⟩),
  ([0x135E8015, 0x92974DB7], .brc ⟨false, .none, 13, false, false, 61, 45, 13, 29, false, true, false, 0, 0x929, 0x0⟩),
  ([0x5022001D, 0x94EC1EEB], .tend ⟨false, .none, 0, false, true, 4, 58, 30, 48, false, true, false, 1, 0x94E, 0x0⟩),
  ([0x94C5821D, 0x9730EF1F], .trap ⟨false, .none, 3, true, false, 11, 7, 47, 3, false, true, false, 2, 0x973, 0x0⟩),
  ([0xD5A9041D, 0x99858053], .sys ⟨false, .none, 6, true, true, 18, 20, 0, 22, false, true, false, 3, 0x998, 0x0⟩),
  ([0x1A4C861D, 0x9BDA5187], .nopb ⟨false, .none, 9, false, false, 25, 33, 17, 41, true, true, false, 0, 0x9BD, 0x0⟩),
  ([0x5B30081D, 0x9E2F22BB], .eret ⟨false, .none, 12, false, true, 32, 46, 34, 60, true, true, false, 1, 0x9E2, 0x0⟩)] = true := by decide +kernel

theorem test_words_integers : codes [
  ([0x9FD38045, 0xA073F3EF], .add ⟨false, .none, 15, true, false, 39, 59, 51, 15, true, true, false, 2, 0xA07, 0x0⟩),
  ([0xDCB70245, 0xA2C88423], .sub ⟨false, .none, 2, true, true, 46, 8, 4, 34, true, true, false, 3, 0xA2C, 0x0⟩),
  ([0x215A8445, 0xA51D5557], .and ⟨false, .none, 5, false, false, 53, 21, 21, 53, false, false, true, 0, 0xA51, 0x0⟩),
  ([0x623E0645, 0xA762268B], .or ⟨false, .none, 8, false, true, 60, 34, 38, 8, false, false, true, 1, 0xA76, 0x0⟩),
  ([0xA6C18845, 0xA9B6F7BF], .xor ⟨false, .none, 11, true, false, 3, 47, 55, 27, false, false, true, 2, 0xA9B, 0x0⟩),
  ([0xE7A50A45, 0xAC0B88F3], .andn ⟨false, .none, 14, true, true, 10, 60, 8, 46, false, false, true, 3, 0xAC0, 0x0⟩),
  ([0x28488C45, 0xAE505927], .min ⟨false, .none, 1, false, false, 17, 9, 25, 1, true, false, true, 0, 0xAE5, 0x0⟩),
  ([0x692C0E45, 0xB0A52A5B], .max ⟨false, .none, 4, false, true, 24, 22, 42, 20, true, false, true, 1, 0xB0A, 0x0⟩),
  ([0xADCF9045, 0xB2F9FB8F], .minn ⟨false, .none, 7, true, false, 31, 35, 59, 39, true, false, true, 2, 0xB2F, 0x0⟩),
  ([0xEEB31245, 0xB54E8CC3], .maxn ⟨false, .none, 10, true, true, 38, 48, 12, 58, true, false, true, 3, 0xB54, 0x0⟩),
  ([0x3356804D, 0xB7935DF7], .shl ⟨false, .none, 13, false, false, 45, 61, 29, 13, false, true, true, 0, 0xB79, 0x0⟩),
  ([0x703A024D, 0xB9E82E2B], .shr ⟨false, .none, 0, false, true, 52, 10, 46, 32, false, true, true, 1, 0xB9E, 0x0⟩),
  ([0xB4DD844D, 0xBC3CFF5F], .sar ⟨false, .none, 3, true, false, 59, 23, 63, 51, false, true, true, 2, 0xBC3, 0x0⟩),
  ([0xF5A1064D, 0xBE819093], .rotl ⟨false, .none, 6, true, true, 2, 36, 16, 6, false, true, true, 3, 0xBE8, 0x0⟩),
  ([0x3A44884D, 0xC0D661C7], .clz ⟨false, .none, 9, false, false, 9, 49, 33, 25, true, true, true, 0, 0xC0D, 0x0⟩),
  ([0x7B280A4D, 0xC32B32FB], .ctz ⟨false, .none, 12, false, true, 16, 62, 50, 44, true, true, true, 1, 0xC32, 0x0⟩),
  ([0xBFCB8C4D, 0xC57FC32F], .popc ⟨false, .none, 15, true, false, 23, 11, 3, 63, true, true, true, 2, 0xC57, 0x0⟩),
  ([0xFCAF0E4D, 0xC7C49463], .ext ⟨false, .none, 2, true, true, 30, 24, 20, 18, true, true, true, 3, 0xC7C, 0x0⟩),
  ([0x0152904D, 0xCA196597], .ins ⟨false, .none, 5, false, false, 37, 37, 37, 37, false, false, false, 0, 0xCA1, 0x0⟩),
  ([0x42360055, 0xCC6E36CB], .mul ⟨false, .none, 8, false, true, 44, 50, 54, 56, false, false, false, 1, 0xCC6, 0x0⟩),
  ([0x86D98255, 0xCEB2C7FF], .mulh ⟨false, .none, 11, true, false, 51, 63, 7, 11, false, false, false, 2, 0xCEB, 0x0⟩),
  ([0xC7BD0455, 0xD1079833], .mulhn ⟨false, .none, 14, true, true, 58, 12, 24, 30, false, false, false, 3, 0xD10, 0x0⟩),
  ([0x08408655, 0xD35C6967], .div ⟨false, .none, 1, false, false, 1, 25, 41, 49, true, false, false, 0, 0xD35, 0x0⟩),
  ([0x49240855, 0xD5A13A9B], .divn ⟨false, .none, 4, false, true, 8, 38, 58, 4, true, false, false, 1, 0xD5A, 0x0⟩),
  ([0x8DC78A55, 0xD7F5CBCF], .rem ⟨false, .none, 7, true, false, 15, 51, 11, 23, true, false, false, 2, 0xD7F, 0x0⟩),
  ([0xCEAB0C55, 0xDA4A9C03], .remn ⟨false, .none, 10, true, true, 22, 0, 28, 42, true, false, false, 3, 0xDA4, 0x0⟩),
  ([0xF83EBA5C], .addi ⟨true, .none, 0, false, false, 29, 61, 0, 0, false, false, false, 3, 0x000, 0x7C1⟩),
  ([0x50320065, 0x82907C6B], .movi ⟨false, .none, 0, false, true, 36, 26, 0, 0, false, true, false, 1, 0x000, 0x82907C⟩),
  ([0x94D58265, 0x82A07F9F], .movhi ⟨false, .none, 3, true, false, 43, 39, 0, 0, false, true, false, 2, 0x000, 0x82A07F⟩),
  ([0xD5B9006D, 0xE38DA0D3], .cmp ⟨false, .none, 6, true, true, 50, 52, 32, 54, false, true, false, 3, 0xE38, 0x0⟩),
  ([0x1A5C826D, 0xE5D27107], .cmpi ⟨false, .none, 9, false, false, 57, 1, 49, 9, true, true, false, 0, 0xE5D, 0x0⟩),
  ([0x5B20046D, 0xE827023B], .plog ⟨false, .none, 12, false, true, 0, 14, 2, 28, true, true, false, 1, 0xE82, 0x0⟩),
  ([0x9FC3866D, 0xEA7BD36F], .pmov ⟨false, .none, 15, true, false, 7, 27, 19, 47, true, true, false, 2, 0xEA7, 0x0⟩),
  ([0xDCA7086D, 0xECC0A4A3], .sel ⟨false, .none, 2, true, true, 14, 40, 36, 2, true, true, false, 3, 0xECC, 0x0⟩)] = true := by decide +kernel

theorem test_words_scalars : codes [
  ([0x214A8075, 0xEF1575D7], .fadd ⟨false, .none, 5, false, false, 21, 53, 53, 21, false, false, true, 0, 0xEF1, 0x0⟩),
  ([0x622E0275, 0xF16A060B], .fsub ⟨false, .none, 8, false, true, 28, 2, 6, 40, false, false, true, 1, 0xF16, 0x0⟩),
  ([0xA6D18475, 0xF3BED73F], .fmul ⟨false, .none, 11, true, false, 35, 15, 23, 59, false, false, true, 2, 0xF3B, 0x0⟩),
  ([0xE7B50675, 0xF603A873], .fma ⟨false, .none, 14, true, true, 42, 28, 40, 14, false, false, true, 3, 0xF60, 0x0⟩),
  ([0x28588875, 0xF85879A7], .fmin ⟨false, .none, 1, false, false, 49, 41, 57, 33, true, false, true, 0, 0xF85, 0x0⟩),
  ([0x693C0A75, 0xFAAD0ADB], .fmax ⟨false, .none, 4, false, true, 56, 54, 10, 52, true, false, true, 1, 0xFAA, 0x0⟩),
  ([0xADDF8C75, 0xFCF1DB0F], .fdiv ⟨false, .none, 7, true, false, 63, 3, 27, 7, true, false, true, 2, 0xFCF, 0x0⟩),
  ([0xEEA30E75, 0xFF46AC43], .fsqrt ⟨false, .none, 10, true, true, 6, 16, 44, 26, true, false, true, 3, 0xFF4, 0x0⟩),
  ([0x3346807D, 0x019B7D77], .fcmp ⟨false, .none, 13, false, false, 13, 29, 61, 45, false, true, true, 0, 0x019, 0x0⟩),
  ([0x702A027D, 0x03E00EAB], .fcvt ⟨false, .none, 0, false, true, 20, 42, 14, 0, false, true, true, 1, 0x03E, 0x0⟩),
  ([0xB4CD847D, 0x0634DFDF], .fclass ⟨false, .none, 3, true, false, 27, 55, 31, 19, false, true, true, 2, 0x063, 0x0⟩),
  ([0xF5B10085, 0x0889B013], .mfc ⟨false, .none, 6, true, true, 34, 4, 48, 38, false, true, true, 3, 0x088, 0x0⟩),
  ([0x3A548285, 0x0ADE4147], .mtc ⟨false, .none, 9, false, false, 41, 17, 1, 57, true, true, true, 0, 0x0AD, 0x0⟩),
  ([0x7B380485, 0x0D23127B], .msetf ⟨false, .none, 12, false, true, 48, 30, 18, 12, true, true, true, 1, 0x0D2, 0x0⟩),
  ([0xBFDB8685, 0x0F77E3AF], .rdts ⟨false, .none, 15, true, false, 55, 43, 35, 31, true, true, true, 2, 0x0F7, 0x0⟩),
  ([0xFCBF0885, 0x11CCB4E3], .rdres ⟨false, .none, 2, true, true, 62, 56, 52, 50, true, true, true, 3, 0x11C, 0x0⟩),
  ([0x492401C5, 0xFDA13A9B], .waitw ⟨false, .none, 4, false, true, 8, 38, 58, 4, true, false, false, 1, 0xFDA, 0x0⟩),
  ([0x8DC783C5, 0xFFF5CBCF], .yield ⟨false, .none, 7, true, false, 15, 51, 11, 23, true, false, false, 2, 0xFFF, 0x0⟩),
  ([0xCEAB05C5, 0x024A9C03], .setwp ⟨false, .none, 10, true, true, 22, 0, 28, 42, true, false, false, 3, 0x024, 0x0⟩)] = true := by decide +kernel

theorem test_words_scratchpad : codes [
  ([0x014280A5, 0x14114517], .ld ⟨false, .none, 5, false, false, 5, 5, 5, 5, false, false, false, 0, 0x141, 0x0⟩),
  ([0x422600AD, 0x1666164B], .st ⟨false, .none, 8, false, true, 12, 18, 22, 24, false, false, false, 1, 0x166, 0x0⟩),
  ([0x86C980B5, 0x18BAE77F], .vld ⟨false, .none, 11, true, false, 19, 31, 39, 43, false, false, false, 2, 0x18B, 0x0⟩),
  ([0xC7AD02B5, 0x1B0FB8B3], .vlds ⟨false, .none, 14, true, true, 26, 44, 56, 62, false, false, false, 3, 0x1B0, 0x0⟩),
  ([0x085084B5, 0x1D5449E7], .vldb ⟨false, .none, 1, false, false, 33, 57, 9, 17, true, false, false, 0, 0x1D5, 0x0⟩),
  ([0x493400BD, 0x1FA91A1B], .vst ⟨false, .none, 4, false, true, 40, 6, 26, 36, true, false, false, 1, 0x1FA, 0x0⟩),
  ([0x8DD782BD, 0x21FDEB4F], .vsts ⟨false, .none, 7, true, false, 47, 19, 43, 55, true, false, false, 2, 0x21F, 0x0⟩),
  ([0xCEBB00C5, 0x2442BC83], .vldx ⟨false, .none, 10, true, true, 54, 32, 60, 10, true, false, false, 3, 0x244, 0x0⟩),
  ([0x135E82C5, 0x26974DB7], .vstx ⟨false, .none, 13, false, false, 61, 45, 13, 29, false, true, false, 0, 0x269, 0x0⟩),
  ([0x502200CD, 0x28EC1EEB], .ldacq ⟨false, .none, 0, false, true, 4, 58, 30, 48, false, true, false, 1, 0x28E, 0x0⟩),
  ([0x94C582CD, 0x2B30EF1F], .strel ⟨false, .none, 3, true, false, 11, 7, 47, 3, false, true, false, 2, 0x2B3, 0x0⟩),
  ([0xD5A904CD, 0x2D858053], .ldf ⟨false, .none, 6, true, true, 18, 20, 0, 22, false, true, false, 3, 0x2D8, 0x0⟩),
  ([0x1A4C86CD, 0x2FDA5187], .stf ⟨false, .none, 9, false, false, 25, 33, 17, 41, true, true, false, 0, 0x2FD, 0x0⟩),
  ([0x5B3008CD, 0x322F22BB], .ldfe ⟨false, .none, 12, false, true, 32, 46, 34, 60, true, true, false, 1, 0x322, 0x0⟩),
  ([0x9FD380D5, 0x3473F3EF], .atom ⟨false, .none, 15, true, false, 39, 59, 51, 15, true, true, false, 2, 0x347, 0x0⟩),
  ([0xDCB702D5, 0x36C88423], .cas ⟨false, .none, 2, true, true, 46, 8, 4, 34, true, true, false, 3, 0x36C, 0x0⟩),
  ([0x215A80DD, 0x391D5557], .ldc ⟨false, .none, 5, false, false, 53, 21, 21, 53, false, false, true, 0, 0x391, 0x0⟩),
  ([0x623E02DD, 0x3B62268B], .stc ⟨false, .none, 8, false, true, 60, 34, 38, 8, false, false, true, 1, 0x3B6, 0x0⟩),
  ([0xA6C184DD, 0x3DB6F7BF], .flushc ⟨false, .none, 11, true, false, 3, 47, 55, 27, false, false, true, 2, 0x3DB, 0x0⟩)] = true := by decide +kernel

theorem test_words_vectors : codes [
  ([0xE7A500E5, 0x400B88F3], .vadd ⟨false, .none, 14, true, true, 10, 60, 8, 46, false, false, true, 3, 0x400, 0x0⟩),
  ([0x284882E5, 0x42505927], .vsub ⟨false, .none, 1, false, false, 17, 9, 25, 1, true, false, true, 0, 0x425, 0x0⟩),
  ([0x692C04E5, 0x44A52A5B], .vmin ⟨false, .none, 4, false, true, 24, 22, 42, 20, true, false, true, 1, 0x44A, 0x0⟩),
  ([0xADCF86E5, 0x46F9FB8F], .vmax ⟨false, .none, 7, true, false, 31, 35, 59, 39, true, false, true, 2, 0x46F, 0x0⟩),
  ([0xEEB308E5, 0x494E8CC3], .vabs ⟨false, .none, 10, true, true, 38, 48, 12, 58, true, false, true, 3, 0x494, 0x0⟩),
  ([0x33568AE5, 0x4B935DF7], .vneg ⟨false, .none, 13, false, false, 45, 61, 29, 13, false, true, true, 0, 0x4B9, 0x0⟩),
  ([0x703A00ED, 0x4DE82E2B], .vmul ⟨false, .none, 0, false, true, 52, 10, 46, 32, false, true, true, 1, 0x4DE, 0x0⟩),
  ([0xB4DD82ED, 0x503CFF5F], .vfma ⟨false, .none, 3, true, false, 59, 23, 63, 51, false, true, true, 2, 0x503, 0x0⟩),
  ([0xF5A104ED, 0x52819093], .vfms ⟨false, .none, 6, true, true, 2, 36, 16, 6, false, true, true, 3, 0x528, 0x0⟩),
  ([0x3A4480F5, 0x54D661C7], .vand ⟨false, .none, 9, false, false, 9, 49, 33, 25, true, true, true, 0, 0x54D, 0x0⟩),
  ([0x7B2802F5, 0x572B32FB], .vor ⟨false, .none, 12, false, true, 16, 62, 50, 44, true, true, true, 1, 0x572, 0x0⟩),
  ([0xBFCB84F5, 0x597FC32F], .vxor ⟨false, .none, 15, true, false, 23, 11, 3, 63, true, true, true, 2, 0x597, 0x0⟩),
  ([0xFCAF06F5, 0x5BC49463], .vshl ⟨false, .none, 2, true, true, 30, 24, 20, 18, true, true, true, 3, 0x5BC, 0x0⟩),
  ([0x015288F5, 0x5E196597], .vshr ⟨false, .none, 5, false, false, 37, 37, 37, 37, false, false, false, 0, 0x5E1, 0x0⟩),
  ([0x42360AF5, 0x606E36CB], .vsar ⟨false, .none, 8, false, true, 44, 50, 54, 56, false, false, false, 1, 0x606, 0x0⟩),
  ([0x86D980FD, 0x62B2C7FF], .vcmp ⟨false, .none, 11, true, false, 51, 63, 7, 11, false, false, false, 2, 0x62B, 0x0⟩),
  ([0xC7BD02FD, 0x65079833], .vsel ⟨false, .none, 14, true, true, 58, 12, 24, 30, false, false, false, 3, 0x650, 0x0⟩),
  ([0x084084FD, 0x675C6967], .klog ⟨false, .none, 1, false, false, 1, 25, 41, 49, true, false, false, 0, 0x675, 0x0⟩),
  ([0x492406FD, 0x69A13A9B], .vpopk ⟨false, .none, 4, false, true, 8, 38, 58, 4, true, false, false, 1, 0x69A, 0x0⟩)] = true := by decide +kernel

theorem test_words_vector_movement : codes [
  ([0x8DC78105, 0x6BF5CBCF], .vcvt ⟨false, .none, 7, true, false, 15, 51, 11, 23, true, false, false, 2, 0x6BF, 0x0⟩),
  ([0xCEAB0305, 0x6E4A9C03], .vpack ⟨false, .none, 10, true, true, 22, 0, 28, 42, true, false, false, 3, 0x6E4, 0x0⟩),
  ([0x134E8505, 0x709F6D37], .vunpk ⟨false, .none, 13, false, false, 29, 13, 45, 61, false, true, false, 0, 0x709, 0x0⟩),
  ([0x5032010D, 0x72E43E6B], .vred ⟨false, .none, 0, false, true, 36, 26, 62, 16, false, true, false, 1, 0x72E, 0x0⟩),
  ([0x94D5830D, 0x7538CF9F], .vscan ⟨false, .none, 3, true, false, 43, 39, 15, 35, false, true, false, 2, 0x753, 0x0⟩),
  ([0xD5B90115, 0x778DA0D3], .vperm ⟨false, .none, 6, true, true, 50, 52, 32, 54, false, true, false, 3, 0x778, 0x0⟩),
  ([0x1A5C8315, 0x79D27107], .vslide ⟨false, .none, 9, false, false, 57, 1, 49, 9, true, true, false, 0, 0x79D, 0x0⟩),
  ([0x5B200515, 0x7C27023B], .vcompr ⟨false, .none, 12, false, true, 0, 14, 2, 28, true, true, false, 1, 0x7C2, 0x0⟩),
  ([0x9FC38715, 0x7E7BD36F], .vext ⟨false, .none, 15, true, false, 7, 27, 19, 47, true, true, false, 2, 0x7E7, 0x0⟩),
  ([0xDCA70915, 0x80C0A4A3], .vins ⟨false, .none, 2, true, true, 14, 40, 36, 2, true, true, false, 3, 0x80C, 0x0⟩),
  ([0x214A8B15, 0x831575D7], .vmov ⟨false, .none, 5, false, false, 21, 53, 53, 21, false, false, true, 0, 0x831, 0x0⟩),
  ([0x622E0D15, 0x856A060B], .vbcast ⟨false, .none, 8, false, true, 28, 2, 6, 40, false, false, true, 1, 0x856, 0x0⟩),
  ([0xA6D18125, 0x87BED73F], .vexp2 ⟨false, .none, 11, true, false, 35, 15, 23, 59, false, false, true, 2, 0x87B, 0x0⟩),
  ([0xE7B50325, 0x8A03A873], .vlog2 ⟨false, .none, 14, true, true, 42, 28, 40, 14, false, false, true, 3, 0x8A0, 0x0⟩),
  ([0x28588525, 0x8C5879A7], .vrcp ⟨false, .none, 1, false, false, 49, 41, 57, 33, true, false, true, 0, 0x8C5, 0x0⟩),
  ([0x693C0725, 0x8EAD0ADB], .vrsq ⟨false, .none, 4, false, true, 56, 54, 10, 52, true, false, true, 1, 0x8EA, 0x0⟩),
  ([0xADDF8925, 0x90F1DB0F], .vtanh ⟨false, .none, 7, true, false, 63, 3, 27, 7, true, false, true, 2, 0x90F, 0x0⟩),
  ([0xEEA3012D, 0x9346AC43], .vord ⟨false, .none, 10, true, true, 6, 16, 44, 26, true, false, true, 3, 0x934, 0x0⟩),
  ([0x3346832D, 0x959B7D77], .vhist ⟨false, .none, 13, false, false, 13, 29, 61, 45, false, true, true, 0, 0x959, 0x0⟩)] = true := by decide +kernel

theorem test_words_matrix : codes [
  ([0x702A0165, 0x97E00EAB], .mma ⟨false, .none, 0, false, true, 20, 42, 14, 0, false, true, true, 1, 0x97E, 0x0⟩),
  ([0xB4CD8365, 0x9A34DFDF], .mmas ⟨false, .none, 3, true, false, 27, 55, 31, 19, false, true, true, 2, 0x9A3, 0x0⟩),
  ([0xF5B1016D, 0x9C89B013], .mlatch ⟨false, .none, 6, true, true, 34, 4, 48, 38, false, true, true, 3, 0x9C8, 0x0⟩),
  ([0x3A54836D, 0x9EDE4147], .mzero ⟨false, .none, 9, false, false, 41, 17, 1, 57, true, true, true, 0, 0x9ED, 0x0⟩),
  ([0x7B38056D, 0xA123127B], .mrd ⟨false, .none, 12, false, true, 48, 30, 18, 12, true, true, true, 1, 0xA12, 0x0⟩),
  ([0xBFDB876D, 0xA377E3AF], .mwr ⟨false, .none, 15, true, false, 55, 43, 35, 31, true, true, true, 2, 0xA37, 0x0⟩),
  ([0xFCBF0175, 0xA5CCB4E3], .mcommit ⟨false, .none, 2, true, true, 62, 56, 52, 50, true, true, true, 3, 0xA5C, 0x0⟩),
  ([0x01428375, 0xA8114517], .mwait ⟨false, .none, 5, false, false, 5, 5, 5, 5, false, false, false, 0, 0xA81, 0x0⟩),
  ([0x4226017D, 0xAA66164B], .mcmpr ⟨false, .none, 8, false, true, 12, 18, 22, 24, false, false, false, 1, 0xAA6, 0x0⟩)] = true := by decide +kernel

theorem test_words_engines : codes [
  ([0x86C98185, 0xACBAE77F], .xcp ⟨false, .none, 11, true, false, 19, 31, 39, 43, false, false, false, 2, 0xACB, 0x0⟩),
  ([0xC7AD0385, 0xAF0FB8B3], .xcp2 ⟨false, .none, 14, true, true, 26, 44, 56, 62, false, false, false, 3, 0xAF0, 0x0⟩),
  ([0x08508585, 0xB15449E7], .xga ⟨false, .none, 1, false, false, 33, 57, 9, 17, true, false, false, 0, 0xB15, 0x0⟩),
  ([0x49340785, 0xB3A91A1B], .xsc ⟨false, .none, 4, false, true, 40, 6, 26, 36, true, false, false, 1, 0xB3A, 0x0⟩),
  ([0x8DD78985, 0xB5FDEB4F], .xkvg ⟨false, .none, 7, true, false, 47, 19, 43, 55, true, false, false, 2, 0xB5F, 0x0⟩),
  ([0xCEBB018D, 0xB842BC83], .xcoll ⟨false, .none, 10, true, true, 54, 32, 60, 10, true, false, false, 3, 0xB84, 0x0⟩),
  ([0x135E8195, 0xBA974DB7], .fence ⟨false, .none, 13, false, false, 61, 45, 13, 29, false, true, false, 0, 0xBA9, 0x0⟩),
  ([0x50220395, 0xBCEC1EEB], .xfence ⟨false, .none, 0, false, true, 4, 58, 30, 48, false, true, false, 1, 0xBCE, 0x0⟩),
  ([0x94C58595, 0xBF30EF1F], .xdfence ⟨false, .none, 3, true, false, 11, 7, 47, 3, false, true, false, 2, 0xBF3, 0x0⟩),
  ([0xD5A90795, 0xC1858053], .drain ⟨false, .none, 6, true, true, 18, 20, 0, 22, false, true, false, 3, 0xC18, 0x0⟩),
  ([0x1A4C8995, 0xC3DA5187], .pfence ⟨false, .none, 9, false, false, 25, 33, 17, 41, true, true, false, 0, 0xC3D, 0x0⟩),
  ([0x5B30019D, 0xC62F22BB], .ratom ⟨false, .none, 12, false, true, 32, 46, 34, 60, true, true, false, 1, 0xC62, 0x0⟩),
  ([0x9FD3839D, 0xC873F3EF], .decr ⟨false, .none, 15, true, false, 39, 59, 51, 15, true, true, false, 2, 0xC87, 0x0⟩),
  ([0xDCB7059D, 0xCAC88423], .rldf ⟨false, .none, 2, true, true, 46, 8, 4, 34, true, true, false, 3, 0xCAC, 0x0⟩),
  ([0x215A879D, 0xCD1D5557], .rstf ⟨false, .none, 5, false, false, 53, 21, 21, 53, false, false, true, 0, 0xCD1, 0x0⟩),
  ([0x623E099D, 0xCF62268B], .send ⟨false, .none, 8, false, true, 60, 34, 38, 8, false, false, true, 1, 0xCF6, 0x0⟩),
  ([0xA6C181A5, 0xD1B6F7BF], .push ⟨false, .none, 11, true, false, 3, 47, 55, 27, false, false, true, 2, 0xD1B, 0x0⟩),
  ([0xE7A503A5, 0xD40B88F3], .pop ⟨false, .none, 14, true, true, 10, 60, 8, 46, false, false, true, 3, 0xD40, 0x0⟩),
  ([0x284885A5, 0xD6505927], .pusht ⟨false, .none, 1, false, false, 17, 9, 25, 1, true, false, true, 0, 0xD65, 0x0⟩),
  ([0x692C07A5, 0xD8A52A5B], .popt ⟨false, .none, 4, false, true, 24, 22, 42, 20, true, false, true, 1, 0xD8A, 0x0⟩),
  ([0xADCF81AD, 0xDAF9FB8F], .twaita ⟨false, .none, 7, true, false, 31, 35, 59, 39, true, false, true, 2, 0xDAF, 0x0⟩),
  ([0xEEB303AD, 0xDD4E8CC3], .twaity ⟨false, .none, 10, true, true, 38, 48, 12, 58, true, false, true, 3, 0xDD4, 0x0⟩),
  ([0x335685AD, 0xDF935DF7], .tfind ⟨false, .none, 13, false, false, 45, 61, 29, 13, false, true, true, 0, 0xDF9, 0x0⟩),
  ([0x703A07AD, 0xE1E82E2B], .tclr ⟨false, .none, 0, false, true, 52, 10, 46, 32, false, true, true, 1, 0xE1E, 0x0⟩),
  ([0xB4DD89AD, 0xE43CFF5F], .cntw ⟨false, .none, 3, true, false, 59, 23, 63, 51, false, true, true, 2, 0xE43, 0x0⟩),
  ([0xF5A101B5, 0xE6819093], .launch ⟨false, .none, 6, true, true, 2, 36, 16, 6, false, true, true, 3, 0xE68, 0x0⟩),
  ([0x3A4483B5, 0xE8D661C7], .spawn ⟨false, .none, 9, false, false, 9, 49, 33, 25, true, true, true, 0, 0xE8D, 0x0⟩),
  ([0x7B2805B5, 0xEB2B32FB], .cancel ⟨false, .none, 12, false, true, 16, 62, 50, 44, true, true, true, 1, 0xEB2, 0x0⟩),
  ([0xBFCB81BD, 0xED7FC32F], .kvmatch ⟨false, .none, 15, true, false, 23, 11, 3, 63, true, true, true, 2, 0xED7, 0x0⟩),
  ([0xFCAF03BD, 0xEFC49463], .kvins ⟨false, .none, 2, true, true, 30, 24, 20, 18, true, true, true, 3, 0xEFC, 0x0⟩),
  ([0x015285BD, 0xF2196597], .kvapp ⟨false, .none, 5, false, false, 37, 37, 37, 37, false, false, false, 0, 0xF21, 0x0⟩),
  ([0x423607BD, 0xF46E36CB], .kvrel ⟨false, .none, 8, false, true, 44, 50, 54, 56, false, false, false, 1, 0xF46, 0x0⟩),
  ([0x86D989BD, 0xF6B2C7FF], .kvpin ⟨false, .none, 11, true, false, 51, 63, 7, 11, false, false, false, 2, 0xF6B, 0x0⟩),
  ([0xC7BD0BBD, 0xF9079833], .kvdem ⟨false, .none, 14, true, true, 58, 12, 24, 30, false, false, false, 3, 0xF90, 0x0⟩),
  ([0x08408DBD, 0xFB5C6967], .kvprom ⟨false, .none, 1, false, false, 1, 25, 41, 49, true, false, false, 0, 0xFB5, 0x0⟩),
  ([0x134E81CD, 0x049F6D37], .pckpt ⟨false, .none, 13, false, false, 29, 13, 45, 61, false, true, false, 0, 0x049, 0x0⟩),
  ([0x503201D5, 0x06E43E6B], .svwin ⟨false, .none, 0, false, true, 36, 26, 62, 16, false, true, false, 1, 0x06E, 0x0⟩),
  ([0x94D583D5, 0x0938CF9F], .svres ⟨false, .none, 3, true, false, 43, 39, 15, 35, false, true, false, 2, 0x093, 0x0⟩),
  ([0xD5B905D5, 0x0B8DA0D3], .xlinv ⟨false, .none, 6, true, true, 50, 52, 32, 54, false, true, false, 3, 0x0B8, 0x0⟩)] = true := by decide +kernel

theorem test_words_compact_and_prefixes : codes [
  ([0xB356A01C], .tend ⟨true, .none, 2, false, false, 42, 21, 51, 0, false, false, false, 0, 0x000, 0x0⟩),
  ([0xB356A044], .add ⟨true, .none, 2, false, false, 42, 21, 51, 0, false, false, false, 3, 0x000, 0x0⟩),
  ([0xB356A4CC], .ldf ⟨true, .none, 2, false, false, 42, 21, 51, 0, false, false, false, 3, 0x000, 0x0⟩),
  ([0xB356A0E4], .vadd ⟨true, .none, 2, false, false, 42, 21, 51, 0, false, false, false, 2, 0x000, 0x0⟩),
  ([0xB356A36C], .mzero ⟨true, .none, 2, false, false, 42, 21, 51, 0, false, false, false, 0, 0x000, 0x0⟩),
  ([0xB356A184], .xcp ⟨true, .none, 2, false, false, 42, 21, 51, 0, false, false, false, 3, 0x000, 0x0⟩),
  ([0x0000680E, 0x00008671, 0x0001030B], .fma ⟨false, .mod 4 2 true, 0, false, false, 1, 2, 3, 4, false, false, false, 0, 0x000, 0x0⟩),
  ([0x0000521E, 0x472092E0], .vsub ⟨true, .latchx true false false, 1, false, true, 9, 8, 7, 0, true, false, false, 2, 0x000, 0x0⟩),
  ([0x5579BC16, 0x00028061, 0xABCDEF03], .movi ⟨false, .immx 0x2ABCDE, 0, false, false, 5, 0, 0, 0, false, false, false, 0, 0x000, 0xABCDEF⟩),
  ([0xFFFFFE16, 0x80010258], .addi ⟨true, .immx 0x7FFFFF, 0, false, false, 1, 2, 0, 0, false, false, false, 3, 0x000, 0x400⟩)] = true := by decide +kernel

theorem test_words_of_the_spec : codesAny [
  ([0x0000020E, 0x980482E9, 0x0100E71F], .vfma ⟨false, .mod 1 0 false, 0, false, false, 9, 7, 39, 3, true, true, false, 2, 0x010, 0x0⟩),
  ([0x02045040], .add ⟨true, .none, 0, false, false, 5, 1, 2, 0, false, false, false, 3, 0x000, 0x0⟩),
  ([0x001084CC], .ldf ⟨true, .none, 0, false, false, 8, 4, 0, 0, false, false, false, 3, 0x000, 0x0⟩),
  ([0x0050539C], .decr ⟨true, .none, 0, false, false, 5, 20, 0, 0, false, false, false, 3, 0x000, 0x0⟩),
  ([0x0000061C], .nopb ⟨true, .none, 0, false, false, 0, 0, 0, 0, false, false, false, 0, 0x000, 0x0⟩),
  ([0x000051CC], .pckpt ⟨true, .none, 0, false, false, 5, 0, 0, 0, false, false, false, 3, 0x000, 0x0⟩),
  ([0x000001C4], .waitw ⟨true, .none, 0, false, false, 0, 0, 0, 0, false, false, false, 3, 0x000, 0x0⟩),
  ([0x001405C4], .setwp ⟨true, .none, 0, false, false, 0, 5, 0, 0, false, false, false, 3, 0x000, 0x0⟩),
  ([0x00000165, 0x01218513], .mma ⟨false, .none, 0, false, false, 0, 4, 5, 6, false, false, false, 0, 0x012, 0x0⟩),
  ([0xC00305BD, 0x00018513], .kvapp ⟨false, .none, 0, false, false, 6, 4, 5, 6, false, false, false, 3, 0x000, 0x0⟩),
  ([0x001C0484], .msetf ⟨true, .none, 0, false, false, 0, 7, 0, 0, false, false, false, 3, 0x000, 0x0⟩),
  ([0x00008174], .mcommit ⟨true, .none, 0, false, false, 8, 0, 0, 0, false, false, false, 0, 0x000, 0x0⟩),
  ([0x00000374], .mwait ⟨true, .none, 0, false, false, 0, 0, 0, 0, false, false, false, 0, 0x000, 0x0⟩),
  ([0x0000156C], .mrd ⟨true, .none, 0, false, false, 1, 0, 0, 0, false, false, false, 0, 0x000, 0x0⟩),
  ([0xC0008385, 0x00018513], .xcp2 ⟨false, .none, 0, false, false, 1, 4, 5, 6, false, false, false, 3, 0x000, 0x0⟩),
  ([0xC0000395, 0x00300003], .xfence ⟨false, .none, 0, false, false, 0, 0, 0, 0, false, false, false, 3, 0x003, 0x0⟩),
  ([0xC0010785, 0x0022481F], .xsc ⟨false, .none, 0, false, false, 2, 7, 8, 9, false, false, false, 3, 0x002, 0x0⟩),
  ([0x00CF1216, 0xC0048061, 0xABCDEF03], .movi ⟨false, .immx 0x6789, 0, false, false, 9, 0, 0, 0, false, false, false, 3, 0x000, 0xABCDEF⟩),
  ([0xC0048265, 0x01234527], .movhi ⟨false, .none, 0, false, false, 9, 9, 0, 0, false, false, false, 3, 0x000, 0x12345⟩),
  ([0x4804832D, 0x0CC0541B], .vhist ⟨false, .none, 0, false, false, 9, 6, 20, 1, true, false, false, 1, 0x0CC, 0x0⟩),
  ([0xC0008185, 0x0003D22F], .xcp ⟨false, .none, 0, false, false, 1, 11, 18, 15, false, false, false, 3, 0x000, 0x0⟩),
  ([0xC0040E4D, 0x04200023], .ext ⟨false, .none, 0, false, false, 8, 8, 0, 0, false, false, false, 3, 0x042, 0x0⟩)] = true := by decide +kernel


/-! ## Terms that are not well-formed (R69 to R72, R78, R82, R83) -/

/-- A compact operation on the primary's `S0`, all fields as its word leaves them. -/
def cop : Op := ⟨true, .none, 0, false, false, 5, 6, 7, 0, false, false, false, 3, 0, 0⟩
/-- A wide operation. -/
def wop : Op := { cop with compact := false }

theorem test_wellformed_forms : ([Instr.add cop, .add wop, .minn wop, .addi { cop with b := 0, imm := 2047 }, .movi { wop with b := 0, imm := 0xFFFFFF },
    .br { wop with b := 0 }, .add { cop with pfx := .latchx true true false, la := true }, .bundleFetch].all fun i => i.wf) = true := by decide

/-- A compact word has no room for these (R69, R78, R82). -/
theorem test_illformed_compact : ([{ cop with pred := 4 }, { cop with pneg := true }, { cop with c := 1 }, { cop with lc := true }, { cop with x12 := 1 },
    { cop with imm := 1 }, { cop with esz := 0 }, { cop with la := true }, { cop with lb := true }, { cop with nw := true },
    { cop with pfx := .immx 0, la := true }, { cop with pfx := .latchx false false true }].all fun o => !(Instr.add o).wf) = true := by decide

/-- A minor of eight or more has no compact form (R69); a wide-immediate operation has none either (R72). -/
theorem test_illformed_wide_only : ([Instr.minn cop, .maxn cop, .ins cop, .movi cop, .br cop, .loop cop].all fun i => !i.wf) = true := by decide

/-- `ADDI` is compact, on `p0`, with eleven bits of immediate (R70). -/
theorem test_illformed_addi : ([wop, { cop with b := 0, imm := 2048 }, { cop with b := 0, pred := 1 }, { cop with b := 0, pneg := true }, { cop with b := 1 },
    { cop with b := 0, c := 1 }, { cop with b := 0, lc := true }, { cop with b := 0, x12 := 1 }, { cop with b := 0, esz := 2 }, { cop with b := 0, la := true },
    { cop with b := 0, pfx := .latchx false false true }].all fun o => !(Instr.addi o).wf) = true := by decide

/-- An ordinary tail has no `imm24`, a wide one no `b`, `c` or `x12` (R72); a prefix before a B-class operation belongs to none (R83). -/
theorem test_illformed_wide : ([Instr.add { wop with imm := 1 }, .movi { wop with b := 1 }, .movi { wop with b := 0, c := 1 },
    .movi { wop with b := 0, x12 := 1 }, .br { wop with b := 0, pfx := .immx 0 }, .bri { wop with pfx := .mod 0 0 false },
    .bri { cop with esz := 0, pfx := .latchx false false false }].all fun i => !i.wf) = true := by decide

/-- A `MOD` of a reserved rounding or saturation is no prefix (R80). -/
theorem test_illformed_prefixes : ([Pfx.mod 5 0 false, .mod 7 0 true, .mod 0 3 false].all fun p => !(Instr.add { cop with pfx := p }).wf) = true ∧
    [Pfx.mod 4 2 true, .mod 0 0 false].all (fun p => (Instr.add { cop with pfx := p }).wf) = true := by decide

/-- The check value of CRC-32C: of the nine digits from 1 (R460). -/
theorem test_crc32c : crc32c ([0x31, 0x32, 0x33, 0x34, 0x35, 0x36, 0x37, 0x38, 0x39] : List Byte) = 0xE3069283 := by decide +kernel

/-- A public key of P-521 and its signature of the bytes of "abc" under SHA-512: the test vector of RFC 4754, section 8.3. -/
def key521 : Nat × Nat :=
  (0x0151518F1AF0F563517EDD5485190DF95A4BF57B5CBA4CF2A9A3F6474725A35F7AFE0A6DDEB8BEDBCD6A197E592D40188901CECD650699C9B5E456AEA5ADD19052A8,
   0x006F3B142EA1BFFF7E2837AD44C9E4FF6D2D34C73184BBAD90026DD5E6E85317D9DF45CAD7803C6C20035B2F3FF63AFF4E1BA64D1C077577DA3F4286C58F0AEAE643)
def sig521 : Nat × Nat :=
  (0x0154FD3836AF92D0DCA57DD5341D3053988534FDE8318FC6AAAAB68E2E6F4339B19F2F281A7E0B22C269D93CF8794A9278880ED7DBB8D9362CAEACEE544320552251,
   0x017705A7030290D1CEB605A9A1BB03FF9CDD521E87A696EC926C8C10C8362DF4975367101F67D1CF9BCCBF2F3D239534FA509E70AAC851AE01AAC68D62F866472660)

/-- SHA-512 of "abc", as FIPS 180-4's example gives it (R519). -/
theorem test_sha512 : sha512 ([0x61, 0x62, 0x63] : List Byte) =
    0xDDAF35A193617ABACC417349AE20413112E6FA4E89A97EA20A9EEEE64B55D39A2192992A274FC1A836BA3C23A3FEEBBD454D4423643CE80E2A9AC94FA54CA49F := by decide +kernel

/-- The signature verifies, and does not for another digest (R519). -/
theorem test_ecdsa : ecdsaOk key521 (sha512 [0x61, 0x62, 0x63]) sig521 = true ∧ ecdsaOk key521 0 sig521 = false := by decide +kernel

/-! ## Single steps with results worked out from the spec -/

/-- After reset, nothing due, a bundle of core 9's primary in progress at 0x100, in slot `S0`; s6, s7 and s8 hold these values. -/
def before (x y z : Word) : State :=
  { State.reset with
    agenda := []
    iss := { Issue.idle with live := true, core := 9, baddr := 0x100, next := 0x110, slot := 2, waddr := 0x104 }
    cores := vset State.reset.cores 9 { Core.reset with prim := { Prim.reset with regs := ((Regs.reset.wrS 6 x).wrS 7 y).wrS 8 z } } }

/-- An operation with s6, s7, s8 as its sources and s5 as its destination. -/
def o5 : Op := { wop with c := 8 }

/-- The results in flight of the issuing core's primary after an instruction. -/
def flown (i : Instr) (s : State) : List (Nat × BitVec 6 × Word) :=
  match exec i s with
  | .next t => (t.prim s.iss.core).flight.map fun f => (f.rcd, f.reg, f.val.setWidth 64)
  | _ => []

/-- The code of the trap that an instruction raises. -/
def trapOf (i : Instr) (s : State) : Option (BitVec 8 × BitVec 8) :=
  match exec i s with
  | .next t => t.iss.raised.map fun r => (r.code, r.sub)
  | _ => none

/-- The branch that an instruction takes. -/
def takenOf (i : Instr) (s : State) : Option (Word × Bool) := match exec i s with | .next t => t.iss.taken | _ => none

/-- The memory and the full-empty bits that an instruction leaves. -/
def memOf (i : Instr) (s : State) : List Host.Cell × List Nat := match exec i s with | .next t => (t.mem, t.empty) | _ => ([], [])

/-- Sums and differences wrap; the signed and unsigned extremes differ where the sign does (R114). -/
theorem test_integer : [flown (.add o5) (before (-1) 2 0), flown (.sub o5) (before 1 2 0), flown (.min o5) (before (-1) 2 0), flown (.minn o5) (before (-1) 2 0),
    flown (.andn o5) (before 0xFF 0x0F 0)] =
  [[(1, 5, 1)], [(1, 5, -1)], [(1, 5, -1)], [(1, 5, 2)], [(1, 5, 0xF0)]] := by decide +kernel

/-- The shift amount is immediate under `x12`[6]; an arithmetic shift keeps the sign; `INS` and `EXT` use position and width (R115). -/
theorem test_shifts : [flown (.shl { o5 with x12 := 0x43 }) (before 3 60 0), flown (.shl o5) (before 3 62 0), flown (.sar o5) (before (-8) 65 0),
    flown (.clz o5) (before 0 0 0), flown (.rotl o5) (before 0x8000000000000001 4 0), flown (.ext { o5 with x12 := 0x0C4 }) (before 0xAB5 0 0),
    flown (.ins { o5 with x12 := 0x0C4 }) (before 0xF 0x1000 0)] =
  [[(1, 5, 24)], [(1, 5, 0xC000000000000000)], [(1, 5, -4)], [(1, 5, 64)], [(1, 5, 0x18)], [(1, 5, 0xB)], [(1, 5, 0x10F0)]] := by decide +kernel

/-- `DIV` of −2^63 by −1 gives −2^63 and `REM` 0; the remainder takes the dividend's sign; a zero divisor traps (R116). -/
theorem test_divide : [flown (.div o5) (before 0x8000000000000000 (-1) 0), flown (.rem o5) (before 0x8000000000000000 (-1) 0),
    flown (.rem o5) (before (-7) 2 0), flown (.div o5) (before (-7) 2 0), flown (.mulh o5) (before (-1) 1 0),
    flown (.mulhn o5) (before (-1) 2 0)] =
  [[(18, 5, 0x8000000000000000)], [(18, 5, 0)], [(18, 5, -1)], [(18, 5, -3)], [(3, 5, -1)], [(3, 5, 1)]] ∧
  trapOf (.divn o5) (before 7 0 0) = some (codeDIVZ, 0) := by decide +kernel

/-- The example of R118: 0x0123_4567_89AB_CDEF from two bundles. -/
theorem test_movi_movhi : (flown (.movi ⟨false, .immx 0x6789, 0, false, false, 9, 0, 0, 0, false, false, false, 3, 0, 0xABCDEF⟩) (before 0 0 0),
    flown (.movhi { o5 with imm := 0x012345 }) (before 0x6789ABCDEF 0 0)) =
  ([(1, 9, 0x6789ABCDEF)], [(1, 5, 0x0123456789ABCDEF)]) := by decide +kernel

/-- `LOOP` from 0 writes all ones and is taken, from 1 writes 0 and is not; its displacement counts words from its own first word (R106). -/
theorem test_loop : (flown (.loop { o5 with imm := 0xFFFFFE }) (before 0 0 0), takenOf (.loop { o5 with imm := 0xFFFFFE, esz := 0 }) (before 0 0 0),
    flown (.loop o5) (before 1 0 0), takenOf (.loop o5) (before 1 0 0)) = ([(1, 5, -1)], some (0xFC, false), [(1, 5, 0)], none) := by decide +kernel

/-- `BRC` compares signed under `.lt` and unsigned under `.ltn`; an indirect target with low bits set raises `ALIGN` (R105, R106, R108). -/
theorem test_branches : [takenOf (.brc { o5 with dst := 2, x12 := 2, esz := 0 }) (before (-1) 1 0), takenOf (.brc { o5 with dst := 6, x12 := 2 }) (before (-1) 1 0),
    takenOf (.bri o5) (before 0x200 0 0)] = [some (0x10C, false), none, some (0x200, true)] ∧ trapOf (.bri o5) (before 0x202 0 0) = some (codeALIGN, 0) := by decide +kernel

/-- 1 + 2^-53 is a tie and rounds to 1; 1.0 times 3.0; 1 by 0 is an infinity; the square root of −1 is the canonical NaN (R49 to R55, R123). -/
theorem test_float : [flown (.fadd { o5 with esz := 3 }) (before 0x3FF0000000000000 0x3CA0000000000000 0),
    flown (.fmul { o5 with esz := 3 }) (before 0x3FF0000000000000 0x4008000000000000 0),
    flown (.fdiv { o5 with esz := 3 }) (before 0x3FF0000000000000 0 0), flown (.fsqrt { o5 with esz := 3 }) (before 0xBFF0000000000000 0 0)] =
  [[(4, 5, 0x3FF0000000000000)], [(4, 5, 0x4008000000000000)], [(14, 5, 0x7FF0000000000000)], [(14, 5, 0x7FF8000000000000)]] := by decide +kernel

/-- A byte loaded with its sign; a store writes the low bytes, lowest first; a misaligned access traps (R5, R139, R143). -/
theorem test_scalar_memory :
    let s := before 0x40 0 0
    let m := { s with mem := [(scratchKey 9 0x40, 0x80), (scratchKey 9 0x41, 0x01)] }
    let st := { o5 with b := 0, c := 0, esz := 1 }
    memOf (.st { st with dst := 6 }) { s with cores := (before 0x1240 0 0).cores } = ([(scratchKey 9 0x1240, 0x40), (scratchKey 9 0x1241, 0x12)], []) ∧
    flown (.ld st) m = [(4, 5, 0x180)] ∧ trapOf (.ld st) (before 0x41 0 0) = some (codeALIGN, 0) ∧
    trapOf (.ld st) (before 0x200000 0 0) = some (codePROT, 1) := by decide +kernel

/-- `LDF` empties a full doubleword and waits at an empty one; `ATOM.add` gives the old value (R149, R155). -/
theorem test_full_empty :
    let s := { before 0x40 5 0 with mem := [(scratchKey 9 0x40, 7)] }
    let w := { o5 with b := 0, c := 0 }
    flown (.ldf w) s = [(4, 5, 7)] ∧ (memOf (.ldf w) s).2 = [scratchKey 9 0x40 / 8] ∧
    flown (.ldf w) { s with empty := [scratchKey 9 0x40 / 8] } = [] ∧
    flown (.atom { o5 with c := 0 }) s = [(4, 5, 7)] ∧ (memOf (.atom { o5 with c := 0 }) s).1 = [(scratchKey 9 0x40, 12)] := by decide +kernel

/-- A program placed at the fetch runs first: `ADD s5, s1, s2` of R98's example word; reset without firmware ends in recovery (R519). -/
theorem test_steps :
    (match step (State.reset.withFetchWord 32 0x02045040) with
      | .next t => (t.prim (placeCore 0x02045040)).flight.map fun f => (f.rcd, f.reg)
      | _ => []) = [(1, 5)] ∧
    (match step State.reset with | .next t => t.term.service.boot == .recovery | _ => false) = true := by decide +kernel

/-- Outside a supervisor's primary, privileged operations raise `PROT` 6 (R16, R113, R273). -/
theorem test_privilege : (trapOf (.eret wop) (before 0 0 0), trapOf (.mtc { o5 with x12 := 0x100 }) (before 0 0 0), trapOf (.xlinv { o5 with x12 := 1 }) (before 0 0 0)) =
  (some (codePROT, 6), some (codePROT, 6), some (codePROT, 6)) := by decide +kernel

/-! ## Witnesses of hypotheses: operations

Each theorem names its obligation; each entry of its list is the hypotheses of one clause, met together by a concrete state and
operands, at a boundary value where the clause has a range. -/

/-- An instruction answers a next state. -/
def nextOf (i : Instr) (s : State) : Option State := match exec i s with | .next t => some t | _ => none

/-- The thread in progress is scavenger 3 of core 9, with a mapped workspace at 0x2000. -/
def onScav (s : State) : State :=
  { s with
    iss := { s.iss with thr := .scav 3 }
    cores := vset s.cores 9 { s.core 9 with scav := Vector.replicate 8 { Scav.reset with wp := 0x2000, st := .ready } } }

/-- The same bundle on the supervisor core of die 0, with s6, s7 and s8 as before. -/
def onSup (s : State) : State :=
  { s with iss := { s.iss with core := 1 }, cores := vset s.cores 1 (s.core 9) }

def b0 : State := before 0x40 0x80 0xC0

/-- Every statement over `s.runs op`: a primary and a scavenger that run an operation; one whose predicate is false; one whose pop cannot be served. -/
theorem witness_runs : [b0.runs o5, (onScav b0).runs o5, (onSup b0).runs o5, !b0.holds { o5 with pred := 15 }, !b0.holds { o5 with pneg := true },
    b0.holds { o5 with la := true, a := 16 } && !b0.popsServed { o5 with la := true, a := 16 },
    b0.iss.taken.isNone && b0.iss.raised.isNone].all id = true := by decide +kernel

theorem witness_DecodeOfEncode : (Instr.add wop).op?.isSome = true ∧ WellFormed (.add wop) := by decide

theorem witness_EncodeOfDecode : decodeFirst (bundleWords [0x02045040]) = some (.add { cop with dst := 5, a := 1, b := 2 }) := by decide +kernel

/-- A bundle of one operation that is due, on core 9 with its code at 0. -/
def oneOp : State :=
  { b0 with
    iss := Issue.idle, cycle := 7
    agenda := [{ due := 7, prio := 1, what := .bundleFetch, arg := EvArg.ofCore 9 }]
    cores := vset b0.cores 9 { b0.core 9 with code := [0x02045040], prim := { (b0.core 9).prim with mode := .running } } }

theorem witness_StepRunsOperation_primary :
    let b := oneOp.begin { due := 7, prio := 1, what := .bundleFetch, arg := EvArg.ofCore 9 } []
    let p := b.prim 9
    let v := (b.stopTicks 9).modPrim 9 fun p => { p with mode := .running, owesDrain := false }
    let f := (b.core 9).fetchBundle .prim p.pc p.entryFrom p.omitAt
    [decide (p.mode = .running), decide ((b.tile (b.tileOf 9)).supply = .on), decide (v.captureDue 9 = none), decide (p.replay = 0), decide (p.regErr = []),
     decide (f.ops.length = 1), decide (f.fault = none), f.ops.all fun o => decide (o.slot < 10)].all id = true := by decide +kernel

/-- A window of scavenger 3 whose sources are read, of an `ADD`. -/
def winAdd : Win :=
  { turn := 3, last := 5, op := some ⟨2, 0, .add { cop with dst := 5, a := 1, b := 2 }⟩, next := 4, todo := [], got := [(1, 7), (2, 8)], extra := 0, done := false,
    dests := [], late := false, stamp := 0, after := .ready }

def oneWin : State :=
  let s := onScav b0
  { s with
    iss := Issue.idle, cycle := 7
    agenda := [{ due := 7, prio := 3, what := .scavengerAccessRetry, arg := argThr 9 (.scav 3) }]
    cores := vset s.cores 9 { s.core 9 with scav := (s.core 9).scav.set 3 { (s.core 9).scav[3] with win := some winAdd } } }

theorem witness_StepRunsOperation_scavenger :
    let b := oneWin.begin { due := 7, prio := 3, what := .scavengerAccessRetry, arg := argThr 9 (.scav 3) } []
    let op : Op := { cop with dst := 5, a := 1, b := 2 }
    [decide ((b.scav 9 3).win = some winAdd), decide (winAdd.last < b.clock 9), decide ((Instr.add op).op? = some op),
     ((b.performWin 9 3 winAdd ⟨2, 0, .add op⟩ true).memAccess 3 (.add op) op 0).isNone].all id = true := by decide +kernel

theorem witness_FetchGivesDecoded :
    let f := (oneOp.core 9).fetchBundle .prim 0 none none
    f.ops = [⟨2, 0, .add { cop with dst := 5, a := 1, b := 2 }⟩] ∧ f.fault = none := by decide +kernel

/-- A state with nothing due, one with a step due, and one without a bundle in progress. -/
theorem witness_EveryStepGoesOn : [decide (b0.agenda = []), !oneOp.agenda.isEmpty, !State.reset.iss.live].all id = true := by decide +kernel

/-- An operation without a port whose pop finds an open direction, and one whose queue is empty (R441, R444). -/
theorem witness_PredicatesAndPops : [(b0.neighbour 9 2).isNone && !b0.popsServed { o5 with la := true, a := 18 },
    (b0.neighbour 9 0).isSome && !b0.popsServed { o5 with la := true, a := 16 }].all id = true := by decide +kernel

theorem witness_RegisterFrame : [Instr.add o5, .divn { o5 with b := 0 }, .bri o5, .vadd { o5 with esz := 2, c := 0 }, .rdts o5, .mrd o5, .tclr o5].map
    (fun i => registerOnly i && (nextOf i b0).isSome) = [true, true, true, true, true, true, false] := by decide +kernel

theorem witness_MemoryLaws : Memory.wf [(3, 1), (9, 2)] = true ∧ Memory.wf [] = true ∧ b0.memWf = true ∧ [(1, 0x41), (2, 0x42), (4, 0x44), (8, 0x1FFFF8)].all
    (fun p => decide (p.1 ∈ [1, 2, 4, 8]) && (p.2 % p.1 == 0 || p.1 == 1)) = true := by decide +kernel

theorem witness_StepKeepsMemoryForm : oneOp.memWf = true ∧ (match step oneOp with | .next t => t.iss.live | _ => true) = false := by decide +kernel

theorem witness_ResultsLand : [decide (b0.iss.thr = .prim), decide ((b0.prim 9).flight = []), decide (b0.iss.slot < 10),
    (oneOp.prim 9).flight.all fun f => f.file != .ctl].all id = true := by decide +kernel

theorem witness_HardWiredRegisters : (onScav b0).memWf = true ∧ ((onScav b0).scav 9 3).wp.toNat % 8 = 0 ∧
    [0, 7].all (fun m => [0, 7].all fun n => progKey ((onScav b0).sbt 9) 9 (hAddr 0x2000 1 + m) != progKey ((onScav b0).sbt 9) 9 (hAddr 0x2000 63 + n)) = true := by
  decide +kernel

/-- A fault of a bundle in progress. -/
def raisedAt (s : State) : State := { s with iss := { s.iss with raised := some ⟨2, 0x104, codeDIVZ, 0, 0, 0⟩ } }
def runningOn (s : State) (c : CoreId) (m : PMode) : State := s.modPrim c fun p => { p with mode := m }

theorem witness_TrapsAndHandlers :
    let s := raisedAt (runningOn b0 9 .running)
    [decide (s.iss.raised.isSome ∧ s.iss.again = false ∧ s.iss.taken = none), decide ((s.prim 9).mode = .running), !isSupervisor 9,
     decide ((raisedAt (onScav b0)).iss.thr = .scav 3 ∧ (raisedAt (onScav b0)).iss.waited = 0 ∧ (raisedAt (onScav b0)).iss.raised.isSome)].all id = true := by
  decide +kernel

/-- A supervisor's own fault: with its ring open and no handler, with the ring closed, and its notice's arrival. -/
theorem witness_TrapsAndHandlers_supervisor :
    let s := raisedAt (runningOn (onSup b0) 1 .running)
    let open_ := s.modCore 1 fun x => { x with ctl := { x.ctl with svrb := 0x800000000000100A } }
    let own := runningOn ({ open_ with iss := Issue.idle, evt := { EvArg.ofCore 1 with k := 1 } }) 1 .halted
    [decide (s.iss.thr = .prim ∧ s.iss.again = false ∧ s.iss.taken = none ∧ s.iss.core = 1) && s.iss.raised.isSome && isSupervisor 1, (s.prim 1).mode == .running,
     (open_.core 1).ctl.svrb.getLsbD 63 && !(open_.core 1).ctl.svAct, !(s.core 1).ctl.svrb.getLsbD 63,
     decide (own.evt.k = 1) && (own.putOff 1 true .ringRecordWrite).isNone && !(own.core 1).frozen && (own.prim 1).mode == .halted].all id = true := by decide +kernel

/-- A wait that has just begun, one that has one cycle left, and one that is at its bound. -/
theorem witness_TrapsAndHandlers_waits :
    let held := fun (n : Nat) => { b0 with cycle := n }.modPrim 9 fun p => { p with hold := some ⟨10, 4096, codeQSTALL, 4⟩ }
    let since := fun (s : State) => match (s.prim 9).hold with | some h => h.since | none => s.cycle
    [decide (codeQSTALL ≠ 0), decide (b0.cycle < since b0 + 1), decide ((held 4105).cycle < since (held 4105) + 4096),
     decide (since (held 4106) + 4096 ≤ (held 4106).cycle)].all id = true := by decide +kernel

/-- A held bundle, a bundle whose bound has run out, and a scavenger's wait: begun now, with a cycle left, and at its bound. -/
theorem witness_TrapsAndHandlers_ends :
    let again := { b0 with iss := { b0.iss with again := true, bound := 5, bcode := codeQSTALL } }
    let runOut := raisedAt (runningOn { b0 with iss := { b0.iss with expired := true } } 9 .running)
    let sc := fun (w : Option Hold) => let s := onScav b0
      { s with cores := vset s.cores 9 { s.core 9 with scav := (s.core 9).scav.set 3 { (s.core 9).scav[3] with wait := w } } }
    let h := fun (s : State) => (s.scav 9 3).wait.getD ⟨s.clock 9, 5, codeQSTALL, 4⟩
    let at_ := fun (n : Nat) => { sc (some ⟨1, 5, codeQSTALL, 4⟩) with cycle := n }
    [decide (again.iss.thr = .prim ∧ again.iss.again = true ∧ again.iss.expired = false ∧ again.iss.marks = 0#4),
     decide (runOut.iss.expired = true ∧ runOut.iss.taken = none ∧ (runOut.prim 9).mode = .running) && runOut.iss.raised.isSome && !isSupervisor 9,
     decide ((sc none).iss.thr = .scav 3 ∧ (sc none).iss.raised = none ∧ (sc none).clock 9 < (h (sc none)).since + (h (sc none)).bound),
     decide ((h (at_ 6)).since + (h (at_ 6)).bound ≤ (at_ 6).clock 9), decide ((at_ 5).clock 9 < (h (at_ 5)).since + (h (at_ 5)).bound)].all id = true := by decide +kernel

/-- Indirect branches to an address that is a multiple of 4, to one that is not, and after a taken branch. -/
theorem witness_Branches : [decide ((b0.srcS 6 false).1.toNat % 4 = 0), decide (((before 0x41 0 0).srcS 6 false).1.toNat % 4 ≠ 0),
    decide ({ b0 with iss := { b0.iss with taken := some (0, false) } }.iss.taken ≠ none)].all id = true := by decide +kernel

theorem witness_EndingOperations : [(onSup b0).runs wop && (onSup b0).privileged && !((onSup b0).core 1).ctl.svAct, !b0.privileged,
    ((onSup b0).modCore 1 fun x => { x with ctl := { x.ctl with svAct := true } }).privileged].all id = true := by decide +kernel

theorem witness_IntegerResults : ({ o5 with x12 := 1 } : Op).x12 ≠ 0 ∧ o5.c ≠ 0 := by decide

/-- A field at the top of the word, one that passes it; zero and nonzero divisors. -/
theorem witness_ShiftsAndDivides : [decide (({ o5 with x12 := 0x03F } : Op).xbits 0 6 + ({ o5 with x12 := 0x03F } : Op).xbits 6 6 + 1 ≤ 64),
    decide ((before 7 0 0).valS 7 false = 0), decide (b0.valS 7 false ≠ 0)].all id = true := by decide +kernel

theorem witness_AddImmediate : (decodeFirst (encode (.addi { cop with b := 0, imm := 2047 })) == some (.addi { cop with b := 0, imm := 2047 })) = true := by
  decide +kernel

theorem witness_MovesAndCompares : [0, 1, 2].all (fun n => decide (({ o5 with x12 := BitVec.ofNat 12 n } : Op).xbits 0 2 = n)) = true ∧
    b0.iss.thr = .prim ∧ (onScav b0).iss.thr ≠ .prim := by decide +kernel

/-- Values at a tie, of the least subnormal and of the formats without infinity; one that overflows in each, and a tiny one under a flush. -/
theorem witness_Rounding :
    let q := fun (f : FFmt) (m : Nat) (e : Int) => max ((Nat.log2 m : Int) + e - (f.mbits : Int)) f.qmin
    let top := fun (f : FFmt) => (2 ^ f.ebits - 1 : Int) - (f.bias : Int) - (if f.hasInf then 1 else 0)
    [decide ((-24 : Int) ≤ q (fmtOf .f32) (2 ^ 24 + 1) (-24) ∧ (roundTo (fmtOf .f32) modeRn false (2 ^ 24 + 1) (-24)).flg &&& (flagOF ||| flagSAT) = 0),
     decide ((-151 : Int) ≤ q (fmtOf .f32) 2 (-151) ∧ (roundTo (fmtOf .f32) modeRn true 2 (-151)).flg &&& (flagOF ||| flagSAT) = 0),
     decide (decodeF (fmtOf .f32) 0x3F800000 = .fin false (2 ^ 23) (-23)), decide (24 < 2 ^ (2 * 2 + 2)),
     [Ty.f64, .f32, .f16, .bf16, .f8e5, .f8e4, .f4e2].all fun t => decide (top (fmtOf t) < (Nat.log2 1 : Int) + 2000),
     decide ((roundTo (fmtOf .f16) { modeRn with ftz := true } true 1 (-20)) = ⟨(fmtOf .f16).signBit true, flagUF ||| flagNX, true⟩)].all id = true := by decide +kernel

/-- No flag enabled; and the flag of an inexact sum enabled. -/
theorem witness_FloatArithmetic :
    let en := b0.modPrim 9 fun p => { p with fpxen := 1 }
    let r := sumF (fmtOf .f64) ⟨0, false, false⟩ [operandF (fmtOf .f64) false 0x3FF0000000000000, operandF (fmtOf .f64) false 1]
    [decide (r.flg &&& b0.fpxen = 0), decide (r.flg &&& en.fpxen ≠ 0)].all id = true := by decide +kernel

/-- A signalling NaN, a quiet one beside a number, two quiet ones, two numbers, zeros of either sign; a compare without an enabled flag. -/
theorem witness_FloatComparesAndConversions :
    let v := operandF (fmtOf .f32) false
    [(v 0x7FA00000).isSig, !(v 0x7FC00000).isSig && (v 0x7FC00000).isNan, !(v 1).isNan, (v 0x3F800000).lt (v 0x40000000), (v 0).isZero && !(v 0).isNeg,
     (v 0x80000000).isZero && (v 0x80000000).isNeg, decide ((cmpF 2 (v 1) (v 0x7FC00000)).2 &&& b0.fpxen = 0)].all id = true := by decide +kernel

/-- A register readable by all, `TSC`, a privileged one in either mode; a residue register; writes that are legal, and held by a busy entry;
matrix formats that are legal and reserved. -/
theorem witness_ControlRegisters :
    let sup := onSup b0
    let busy := sup.modCore 1 fun x => { x with ctl := { x.ctl with sbt := vset x.ctl.sbt 5 0xA000000000000005 } }
    [decide (({ o5 with x12 := 6 } : Op).x12.toNat = 6 ∧ needsPriv 6 false = false), decide (needsPriv 0x200 false = true ∧ b0.privileged = false ∧ sup.privileged = true),
     decide (({ o5 with x12 := 0x24 } : Op).xbits 3 3 = 4 ∧ ({ o5 with x12 := 0x24 } : Op).xbits 0 3 < 5),
     decide ((b0.sbtBusy 6 || b0.spillHeld 6 4) = false ∧ b0.mtcBad 9 6 4 1 = none), decide (needsPriv 0x105 true = true),
     decide ((busy.sbtBusy 0x105 || busy.spillHeld 0x105 0) = true), decide (needsPriv 0x105 true = true ∧ b0.privileged = false),
     decide ((decodeMfmt 0).isSome), decide ((decodeMfmt (-1)).isSome = false)].all id = true := by decide +kernel

/-- A residue register that a scavenger's window holds, that the bundle has read before, and that no operation has read. -/
theorem witness_ControlRegisters_residues :
    let s := onScav b0
    [decide (s.iss.thr = .scav 3), ({ s with iss := { s.iss with got := [(0, 7)] } } : State).iss.got == [(0, 7)],
     (({ b0 with iss := { b0.iss with got := [(0x24, 7)] } } : State).iss.got.find? fun q => q.1 == BitVec.ofNat 6 (({ o5 with x12 := 0x24 } : Op).xbits 0 6)) == some (0x24, 7),
     b0.iss.got.isEmpty].all id = true := by decide +kernel

/-- An operation whose address is s6 alone, with doublewords. -/
def oA : Op := { o5 with b := 0, c := 0 }
/-- Domain d's address of core c's offset p. -/
def glo (d c p : Nat) : Word := BitVec.ofNat 64 (2 ^ 52 * d + 2 ^ 42 * c + p)

/-- Checks pass at the first and last doubleword of the scratchpad, at its last byte, on either thread; the widths of an extended load. -/
theorem witness_ScalarAccesses : [(before 0 0 0).accessBad true false false 8 [(0, 0)] == none, b0.accessBad true false false 8 [(0, 0x1FFFF8)] == none,
    b0.accessBad false true true 1 [(0, 0x1FFFFF)] == none, (onScav b0).accessBad true false false 8 [(0, 0x40)] == none, decide (Op.lop oA < 2),
    decide (2 ≤ Op.lop { oA with c := 16 }), ((onScav b0).cacheFault 9 3).isNone, decide ((onScav b0).iss.thr ≠ .prim)].all id = true := by decide +kernel

/-- Each failing row with those before it passed: misaligned, at the end of the scratchpad, unmapped, spilled, busy, refused by a protection region. -/
theorem witness_AccessChecks :
    let sbt := fun (w : Word) => (before 0x8000 0 0).modCore 9 fun x => { x with ctl := { x.ctl with sbt := vset x.ctl.sbt 1 w } }
    let prot := b0.modCore 9 fun x => { x with ctl := { x.ctl with prb := vset x.ctl.prb 0 0x8000000000000000, prp := vset x.ctl.prp 0 0xE } }
    [decide (((before 0x41 0 0).ea oA).toNat % 8 ≠ 0), decide (((before 0x200000 0 0).ea oA).toNat = 2 ^ 21),
     decide ((vget ((sbt 0).core 9).ctl.sbt 1).getLsbD 63 = false ∧ ((sbt 0).ea oA).toNat / 32768 = 1),
     decide ((vget ((sbt 0xC000000000000001).core 9).ctl.sbt 1).getLsbD 62 = true), decide ((vget ((sbt 0xA000000000000001).core 9).ctl.sbt 1).getLsbD 61 = true),
     permits (b0.core 9).ctl .prim false 0x40, !permits (prot.core 9).ctl .prim false 0x40].all id = true := by decide +kernel

/-- Full-empty accesses and atomics that pass; a full and an empty doubleword; the three codes of `LDFE`. -/
theorem witness_SynchronisingAccesses : [b0.accessBad true false false 8 [(0, 0x40)] == none, b0.accessBad false true true 8 [(0, 0x40)] == none,
    b0.isFull (b0.keyOf 0x40), !{ b0 with empty := [b0.keyOf 0x40 / 8] }.isFull (b0.keyOf 0x40), b0.atomBad 8 0x40 == none, b0.atomBad 4 0x44 == none,
    [0, 1, 2].all fun n => decide (Op.lop { oA with c := BitVec.ofNat 6 (8 * n) } = n), decide (b0.keyOf 0x48 / 8 ≠ b0.keyOf 0x40 / 8)].all id = true := by
  decide +kernel

/-- Vector accesses of one doubleword element and of none: every address form passes its checks. -/
theorem witness_VectorAccesses :
    let es : List Elem := [(0, 0x40)]
    [b0.accessBad true false false 8 (b0.contigElems oA) == none, b0.accessBad true false false 8 (b0.bcastElems oA) == none,
     b0.sparseBad false 4 8 es == none, b0.sparseBad false 8 8 es == none, b0.sparseBad true 8 8 es == none, b0.sparseBad true 4 8 [] == none,
     b0.accessBad false true true 8 (b0.contigElems oA) == none, decide ((es.map Prod.fst).Nodup ∧ ∀ e ∈ es, e.1 < 4096 / 64)].all id = true := by decide +kernel

theorem witness_StoreFrames : [Instr.st oA, .strel oA, .ldf oA, .ldfe oA, .atom oA, .cas oA, .vst oA].map (fun i => (nextOf i b0).isSome) =
    List.replicate 7 true := by decide +kernel

/-- A cached line, a line that is absent, a dirty line of the thread; a legal domain. -/
theorem witness_CachedAccesses :
    let s := onScav (before 0 0 0)
    let a := glo 3 0 0x40
    let l : CLine := { addr := a.toNat, data := 5, dirty := 0, writers := 0, readers := none }
    let t := s.modCore 9 fun x => { x with cache := [l] }
    let r := s.modCore 9 fun x => { x with cache := [{ l with readers := some 8 }] }
    [decide (a.toNat % 8 = 0 ∧ a.toNat / 32 * 32 = a.toNat), cacheDomOk a, decide (domOf a.toNat ≠ 7), (s.cacheFault 9 3).isNone,
     (t.core 9).line a.toNat == some l, ((s.core 9).line a.toNat).isNone, (t.core 9).hit 3 a.toNat == some l, ((r.core 9).hit 3 a.toNat).isSome,
     ((r.core 9).hit 2 a.toNat).isNone, !((s.core 9).qnet.any fun p => p.kind == .writeBack && p.a.toNat == a.toNat),
     !(s.releaseLines 9 3).2].all id = true := by decide +kernel

/-- An uncached access: not sent, on its way, answered, refused; a misaligned one, one outside the domains, one that a failed fill concerns. -/
theorem witness_CachedAccesses_uncached :
    let at_ := fun (a : Word) => (onScav b0).writeKey (scratchKey 9 (hAddr 0x2000 6)) (natToBytes 8 a.toNat)
    let ask := fun (q : Option (Option (Option Word))) => (at_ (glo 7 0 0x20000)).modScav 9 3 fun x => { x with ask := q }
    let bad := (at_ (glo 3 0 0x40)).modCore 9 fun x => { x with cacheErr := [((glo 3 0 0x40).toNat, 8)] }
    [decide (((at_ (glo 3 0 0x41)).ea oA).toNat % 8 ≠ 0), !cacheDomOk ((at_ (glo 9 0 0x40)).ea oA),
     cacheDomOk ((ask none).ea oA) && decide (domOf ((ask none).ea oA).toNat = 7), [none, some none, some (some (some 5)), some (some none)].all fun q => ((ask q).scav 9 3).ask == q,
     (bad.cacheFault 9 3).isSome && decide (domOf (bad.ea oA).toNat ≠ 7) && cacheDomOk (bad.ea oA),
     (((at_ (glo 3 0 0x40)).modCore 9 fun x => { x with qnet := [{ b0.pendOf oA .writeBack with a := glo 3 0 0x40 }] }).core 9).qnet.any fun p => p.kind == .writeBack].all id = true := by
  decide +kernel

/-- The vector operations' premises: lists of every width, flags that no enable meets and one that it does. -/
theorem witness_LanewiseOperations : [4, 8, 16, 32, 64].all (fun w => decide ((List.replicate (4096 / w) 1).length = 4096 / w)) = true ∧
    (0 : BitVec 6) &&& (b0.fpxen) = 0 ∧ (1 : BitVec 6) &&& (b0.modPrim 9 fun p => { p with fpxen := 1 }).fpxen ≠ 0 := by decide +kernel

/-- A narrowing of 16 to 8 bits, and the upper half of a widening of 8 to 16. -/
theorem witness_VectorMasksAndConversions :
    let down := convTys { o5 with x12 := 0x098 }
    let up := convTys { o5 with x12 := 0x089, c := 1 }
    2 * down.1.width = down.2.width ∧ 1 * (4096 / up.1.width) + 4096 / up.1.width ≤ 4096 / up.2.width := by decide +kernel

/-- A slide by all elements but none left out, a histogram of seven bits. -/
theorem witness_VectorMovement : ({ o5 with x12 := 0x1B0 } : Op).xbits 6 3 < 7 ∧ ({ o5 with esz := 0 } : Op).modifier + 1 ≤ 4096 / (logicTy { o5 with esz := 0 }).width := by
  decide +kernel

/-- Operands of one 16 by 16 step of K = 8 at the least geometry; a full and an empty `Q.MX`; a latch load; a compression of eight columns. -/
def mxEnt : MEntry :=
  { id := 0, kind := .mma, base := 0, mt := 1, nt := 1, latch := none, z := false, esz := 0, ty := 0, mfmt := 0, a := 0x40, b := 0x80, geom := 0x100010010,
    sbt := sbtReset, batch := some 0, enq := 0, start := 1, finish := 8, complete := 20, bad := false, bytesA := [], bytesB := [] }

theorem witness_MatrixQueue :
    let f := mfmtOf 0
    let k := f.pair.granule
    let g : Word := BitVec.ofNat 64 (k + 2 ^ 16 * 4 + 2 ^ 32 * 4)
    let s := before 0x40 0x80 g
    let e := { s.newEntry .mma o5 with a := 0x40, b := 0x80, geom := g, mt := 1, nt := 1 }
    let full := s.modCore 9 fun x => { x with qmx := List.replicate 8 mxEnt }
    let gc : Word := BitVec.ofNat 64 (2 ^ 48 + 8 + 2 ^ 16 + 2 ^ 32)
    [decide (1 ≤ mxEnt.phase), decide (Word.bits g 48 16 = 0), decide (1 ≤ k ∧ k ≤ 32768), decide ((mfmtOf 0x400).sp ≠ 0), decide (f.ta ≠ .f4e2 ∧ f.sp ≠ 2),
     decide (e.cols * elemBytes f.tb k ≤ 2048), s.spanBad false 0x40 e.spanA == none, s.spanBad false 0x80 e.spanB == none, s.unlandedTile 5 1 == none,
     decide ((s.core 9).qmx.length < 8), decide (8 ≤ (full.core 9).qmx.length), s.spanBad false 0x1FF800 2048 == none,
     decide (1 ≤ Word.bits gc 48 16 ∧ Word.bits gc 0 16 = 8), s.spanBad true 0x40 (mcmprDstSpan .f16 gc) == none,
     s.spanBad false 0x80 (mcmprSrcSpan .f16 gc) == none].all id = true := by decide +kernel

/-- A tile that no entry targets, one that does; a fourth commit that may go on and one that waits. -/
theorem witness_TilesAndBatches :
    let q := b0.modCore 9 fun x => { x with qmx := [mxEnt], prim := { x.prim with commits := 4 } }
    let targets := fun (s : State) (n : Nat) => (s.core 9).qmx.any fun e => decide (e.base ≤ n) && decide (n < e.base + e.tiles)
    [!targets b0 0, targets q 0, !targets q 1, decide ((b0.prim 9).commits < 4), decide (4 ≤ (q.prim 9).commits) && !q.batchDone 0,
     decide ((b0.core 9).qmx = [])].all id = true := by decide +kernel

/-- An incomplete batch and a complete one, a number never given, and with `x12`[2] an empty and a full `Q.MX`. -/
theorem witness_TilesAndBatches_waits :
    let q := fun (b : Option Nat) => b0.modCore 9 fun x => { x with qmx := [{ mxEnt with batch := b }], prim := { x.prim with commits := 1, given := 1 } }
    let i := fun (n : Nat) => ({ o5 with x12 := BitVec.ofNat 12 n } : Op)
    [!(i 0).x12.getLsbD 2 && !(i 0).x12.getLsbD 3 && decide ((i 0).xbits 0 2 = 0) && ((q (some 0)).prim 9).given.getLsbD 0, !(q (some 0)).batchDone 0, (q (some 1)).batchDone 0,
     !(b0.prim 9).given.getLsbD 1, (i 4).x12.getLsbD 2, (i 8).x12.getLsbD 3 && !(i 8).x12.getLsbD 2].all id = true := by decide +kernel

/-- Vector accesses that each row refuses; the watch and a guard. -/
theorem witness_AccessChecks_rows :
    let w := b0.modCore 9 fun x => { x with ctl := { x.ctl with watcha := 0xC000000000000040, watchm := 7 } }
    let g := b0.modCore 9 fun x => { x with qmx := [{ mxEnt with kind := .mma, a := 0x40, start := 1, finish := 100, complete := 110 }] }
    let near := b0.modPrim 9 fun p => { p with spacing := 1 }
    let es : List Elem := [(0, 0x40), (1, 0x1040), (2, 0x2040), (3, 0x3040), (4, 0x4040)]
    [[true, false].map (fun wr => watchHits (w.core 9).ctl wr 0x40), [guardedByte (g.core 9) 5 (physAddr (g.core 9).ctl.sbt 0x40)], [decide ((near.prim 9).spacing ≠ 0)],
     [decide (4 < ((distinctDws es).filter fun x => x % 512 == 0x40 / 8 % 512).length), decide ((b0.prim 9).spacing = 0), !b0.secondSparse]] =
    [[true, true], [true], [true], [true, true, true]] := by decide +kernel

/-- The engines' operands: a copy of 64 bytes from a vault to the scratchpad, rows, indices at their last place, a token descriptor, a group of one; queues with a
place and without. -/
theorem witness_EngineQueues :
    let g : Word := BitVec.ofNat 64 (0x100 + 2 ^ 24 * 2)
    let s := before 0x40 (glo 3 0 0x1000) g
    let p := s.pendOf o5 .xcp
    let full := s.modCore 9 fun x => { x with qcp := List.replicate 16 p, qga := List.replicate 16 p }
    [decide (p.thr = s.iss.thr ∧ p.tag = 5), decide ((s.core 9).queue .cp = []), decide (g.toNat < 2 ^ 32), s.gloBad copyDoms true 0x40 64 == none,
     s.gloBad copyDoms false (glo 3 0 0x1000) 64 == none, (rowsOf 0x40 (glo 3 0 0x1000) g).all fun r => s.locBad true (BitVec.ofNat 64 r.2.1) r.2.2 == none,
     firstBad (s.idxBad g) == none, s.locBad true 0x40 (idxCount g * 8) == none, s.locBad false (g &&& 0x1FFFFF) (4 * idxCount g) == none,
     alignBad 64 (glo 3 0 0x1000) == none, s.gloBad [2, 3, 8] false (glo 3 0 0x1000) 64 == none, decide (((s.core 9).queue .ga).length < 16),
     decide (QKind.size .ga ≤ ((full.core 9).queue .ga).length), decide (QKind.size .cp ≤ ((full.core 9).queue .cp).length),
     decide (Word.bits (BitVec.ofNat 64 256) 34 30 = 0 ∧ collCount 256 = 1), alignBad 8 0x40 == none, s.locBad true 0x40 8 == none].all id = true := by decide +kernel

/-- Sets of one and of four queues; a thread that has placed its markers. -/
theorem witness_Fences : [({ o5 with x12 := 1 } : Op).xbits 0 4 != 0, (queueSet 15).all fun q => decide (((b0.core 9).queue q).length < q.size), decide (b0.marksOf = []),
    decide ((b0.setMarks 9 .prim [3]).marksOf ≠ []), decide (({ o5 with x12 := 2 } : Op).xbits 0 3 = 2), ((onScav b0).cacheFault 9 3).isNone].all id = true := by
  decide +kernel

/-- A remote doubleword with its result place, a counter, full-empty accesses of another core's scratchpad, a descriptor, an identifier. -/
theorem witness_InjectionOperations :
    let s := before (glo 3 0 0x40) 1 0x40
    let r := before (glo 1 10 0x40) 1 0x40
    let full := s.modCore 9 fun x => { x with inj := List.replicate 16 (s.pendOf o5 .ratom) }
    [s.gloBad atomDoms false (glo 3 0 0x40) 8 == none, s.gloBad atomDoms true (glo 3 0 0x40) 8 == none, s.locBad true 0x40 8 == none,
     s.gloBad atomDoms false (glo 3 0 0x40) 32 == none, r.gloBad [0, 1] false (glo 1 10 0x40) 8 == none, r.gloBad [0, 1] true (glo 1 10 0x1FFFF8) 8 == none,
     s.locBad false 0x1FFFC0 64 == none, s.locBad true (0x1FFFC0 + 0x38) 8 == none, decide (0 < (levelOf 0).ids), decide ((s.core 9).inj.length < 16),
     decide (16 ≤ (full.core 9).inj.length), decide (({ o5 with x12 := 10 } : Op).modifier = 10), s.locBad false 0x40 8 == none].all id = true := by decide +kernel

/-- A record of the launch table. -/
def recOf (n : Nat) : WRec :=
  { done := false, hold := false, err := false, can := 0, nop := true, parent := 0, pri := 0, capNow := false, count := n, age := 0, order := 0, next := 0, ret := [], doneAt := 0,
    desc := [0, 0x100010001, 1, 0], code := [], save := 0, cores := 1#1024 <<< 9, running := [], acks := [] }

/-- Messages of no argument and of four, to a core and to the deque; counters that are absent, done and outstanding. -/
theorem witness_MessagesAndCounters :
    let s := before 10 0x40 0
    let t := fun (d : Bool) => s.setRec .launch 0 { recOf 3 with done := d }
    let m : Msg := { target := 10, args := #v[0, 0, 0, 0], stamp := 0, src := 9, orig := 0, thr := .prim, ref := 0 }
    let q : Pend := { s.pendOf oA .send with mail := some { ni := .core 9, seq := 1, msg := m, refused := true, held := false, taken := false } }
    let behind := s.modCore 9 fun x => { x with inj := [q], nextId := q.id + 1 }
    [s.locBad false 0x40 32 == none, s.locBad false 0x40 0 == none, isCore 10 && isCore 0x2BF, !isCore 0xC0, decide ((s.tile (s.tileOf 9)).deque.length < 64),
     (s.wrec .launch 0).isNone, ((t true).wrec .launch 0).any fun r => r.done, ((t false).wrec .launch 0).any fun r => !r.done,
     decide (Word.bits (10 : Word) 0 10 = 10 ∧ Word.bits (0 : Word) 0 10 = 0), (s.core 9).inj.isEmpty,
     (behind.core 9).inj.all fun q => decide (q.thr = .prim ∧ q.id < (behind.core 9).nextId) && q.mail.any fun n => n.refused && n.msg.dest == coreOfNat 10].all id = true := by
  decide +kernel

/-- A direction with a neighbour and one without; with and without a credit; with and without a value. -/
theorem witness_NeighbourPorts :
    let none_ := b0.modPrim 9 fun p => { p with credits := Vector.replicate 4 0 }
    let some_ := b0.modPrim 9 fun p => { p with portq := vset p.portq 0 [7] }
    [(b0.neighbour 9 0).isSome && (b0.portLat 9 0).isSome, (b0.neighbour 9 2).isNone, decide (popDirs o5 = []), decide (0 < b0.credit 9 .prim 0),
     decide (none_.credit 9 .prim 0 = 0), decide (b0.queued 9 .prim 0 = 0), decide (0 < some_.queued 9 .prim 0), decide (vget (some_.prim 9).portq 0 = 7 :: []),
     b0.holds o5].all id = true := by decide +kernel

/-- Masks of a primary and of a scavenger; all tags ready, none, the last one. -/
theorem witness_TagOperations :
    let rdy := b0.modPrim 9 fun p => { p with tags := p.tags.set 63 { ready := true, status := 0, count := 0, stamp := 0, doneAt := 0 } }
    [!b0.maskBad (-1), !(onScav b0).maskBad 255, (rdy.tagsOf[63]?).any Tag.ready, decide (rdy.tagsOf.length = 64), b0.tagsOf.all fun t => !t.ready].all id = true := by
  decide +kernel

/-- A descriptor in the sump, results and token lists at the last places that hold them, sweeps of one and of no block. -/
theorem witness_PagerOperations :
    let a := glo 3 0 0x1000
    [firstBad (b0.descBad a) == none, b0.locBad true 0x1FFFF8 8 == none, b0.locBad false 0x1FFFFC 4 == none, b0.locBad true 0x1F8000 (8 * 4096) == none,
     decide (Word.bits (BitVec.ofNat 64 (0x40 + 2 ^ 24 * 3)) 21 3 = 0 ∧ Word.bits (BitVec.ofNat 64 (0x40 + 2 ^ 24 * 3)) 48 16 = 0),
     decide (Word.bits (1 : Word) 28 36 = 0 ∧ Word.bits (1 : Word) 0 24 ≠ 0), decide (({ o5 with x12 := 1 } : Op).x12.getLsbD 0),
     decide ((b0.core 9).qkv.length < 8)].all id = true := by decide +kernel

/-- A workspace that is legal and one that is not; `YIELD` of no turn and of one. -/
theorem witness_ScavengerManagement : [(onScav b0).wpBad 9 (.scav 3) 0x2000 == none, ((onScav b0).wpBad 9 (.scav 3) 0x2001).isSome,
    decide (({ o5 with x12 := 1 } : Op).x12 ≠ 0), decide (oA.x12 = 0), (onScav b0).memWf].all id = true := by decide +kernel

/-- A fault record whose notice has been received. -/
def recvd (t : Thr) : FaultRec := 
  { code := codeDIVZ, sub := 0, slot := if t == .prim then 2 else 15, baddr := 0x100, waddr := 0x104, info := 0, stamp := 0, bt1 := 0, bt2 := 0, done := 0, pres := 4,
    drn := false, cw2 := 0, elem := 0, latches := [], flight := [], enc := false, received := true, moved := false }

/-- A halted primary and a halted scavenger of the supervisor's die; one that is not halted; reads before and at the round trip; legal writes. -/
theorem witness_SupervisorOperations :
    let s := (onSup (before 9 0 0)).modPrim 9 fun p => { p with mode := .halted, fault := some (recvd .prim) }
    [decide (s.target (s.valS 6 false) = some (9, .prim)), decide ((s.openFault 9 .prim).isSome), decide ((onSup b0).openFault 9 .prim = none), s.privileged, !b0.privileged,
     selOk .prim false 0 && selOk .prim true 0, !selOk .prim true 0xB000000, decide (s.windowBad 9 0 0 = none), (s.windowBad 9 0x8000000 0).isSome && selOk .prim true 0x8000000,
     !s.windowBusy 9 0, decide ((s.core 1).inj.length < 16), decide (s.clock 1 < s.clock 1 + s.seenWay 1 (2 * s.oneWay 1 9)),
     decide ((((s.modPrim 1 fun p => { p with hold := some ⟨0, 0, 0, 0⟩ }).prim 1).hold.map Hold.since).getD 7 = 0), decide (s.target 0x4000 = none),
     decide (s.target (9 + 2 ^ 13 + 2 ^ 10 * 7) = some (9, .scav 7)), decide (Word.bits (3 : Word) 2 62 = 0), s.gloBad [2, 3, 4, 5, 6, 8] false (glo 3 0 0x10000) 8 == none].all id = true := by
  decide +kernel

/-- A read of the window before it is sent, on its way and due; a write with room and without. -/
theorem witness_SupervisorOperations_windows :
    let s := (onSup (before 9 0 0)).modPrim 9 fun p => { p with mode := .halted, fault := some (recvd .prim) }
    let p := { s.newPend 1 .prim .svres with ws := [1], a := s.valS 6 false, c := 0, bound := 50 }
    let out := fun (s : State) => (s.core 1).inj.find? fun p => p.kind == .svres && p.ws == [1] && p.a == s.valS 6 false && p.c == 0
    let t := s.modCore 1 fun x => { x with inj := [p] }
    let u := { t with cycle := 50 }
    [(out s).isNone && decide ((s.core 1).inj.length < 16), (out t).any fun p => decide (t.clock 1 < p.bound), (out u).any fun p => decide (p.bound ≤ u.clock 1),
     decide (16 ≤ ((s.modCore 1 fun x => { x with inj := List.replicate 16 p }).core 1).inj.length)].all id = true := by decide +kernel

/-! ## Witnesses of hypotheses: the machine's own steps -/

/-- After reset, with nothing due and an event of core 9's in progress. -/
def ev (f : EvArg → EvArg) : State := { b0 with iss := Issue.idle, evt := f (EvArg.ofCore 9) }
/-- Its core 9 changed. -/
def ev9 (f : EvArg → EvArg) (g : Core → Core) : State := (ev f).modCore 9 g
/-- The same for scavenger 3, with a workspace at 0x2000. -/
def evS (f : EvArg → EvArg) (g : Scav → Scav) : State :=
  ev9 (fun e => f { e with thr := .scav 3 }) fun x => { x with scav := x.scav.set 3 (g { Scav.reset with wp := 0x2000, st := .ready, code := [0x02045040] }) }

theorem witness_IssueEvents :
    let s := ev9 id fun x => { x with code := [0x02045040], prim := { x.prim with mode := .running } }
    let d := ev9 id fun x => { x with code := [0x02045040], prim := { x.prim with mode := .drain, owesDrain := true } }
    let ok := fun (s : State) =>
      decide ((s.tile (s.tileOf 9)).supply = .on) && decide (((s.stopTicks 9).modPrim 9 fun p => { p with mode := .running, owesDrain := false }).captureDue 9 = none) &&
      decide ((s.prim 9).replay = 0 ∧ (s.prim 9).regErr = []) && decide (((s.core 9).fetchBundle .prim (s.prim 9).pc (s.prim 9).entryFrom (s.prim 9).omitAt).fault = none)
    [ok s, ok d, decide ((s.prim 9).mode = .running), decide ((d.prim 9).mode = .drain)].all id = true := by decide +kernel

theorem witness_ScavengerEvents :
    let s := evS id id
    let f := (s.core 9).fetchBundle (.scav 3) (s.scav 9 3).pc (s.scav 9 3).entryFrom (s.scav 9 3).omitAt
    let w := fun (l : List (BitVec 6)) (d : Bool) => ({ winAdd with todo := l, done := d, last := 0, dests := [Dest.reg 0x2028 7 1] } : Win)
    let at6 := fun (s : State) => { s with cycle := 6 }
    let late := fun (i : Instr) => ({ winAdd with op := some ⟨2, 0, i⟩, last := 0, late := true } : Win)
    let lf : Op := { cop with dst := 5, a := 2, b := 0 }
    let held := fun (i : Instr) => at6 (evS id fun x => { x with win := some (late i), wait := some ⟨1, 5, codeFEWAIT, 7⟩ })
    let h : State := held (.ldf lf)
    let u : State := h.performWin 9 3 (late (.ldf lf)) ⟨2, 0, .ldf lf⟩ true
    let busy := h.modCore 9 fun x => ((x.takeBanks (h.clock 9) (h.clock 9) 0 (BitVec.allOnes 512)).takeBanks (h.clock 9) (h.clock 9) 1 (BitVec.allOnes 512)).takeBanks
      (h.clock 9) (h.clock 9) 2 (BitVec.allOnes 512)
    let po : Op := { cop with dst := 5, a := 0, b := 0 }
    [decide ((s.scav 9 3).st = .ready ∧ (s.scav 9 3).win = none ∧ (s.core 9).frozen = false ∧ (s.scav 9 3).pendWp = none ∧ (s.tile (s.tileOf 9)).tokens ≠ 0), decide (f.fault = none),
     f.ops.length == 1 && f.ops.all fun o => ((scavSlots o.instr).find? fun n => s.emptySlot 9 n).isSome && !injects o.instr, decide ((s.core 9).slotUntil ≤ s.cycle),
     ((at6 (evS id fun x => { x with win := some (w [] true) })).takePort 9 0x2028).isSome && (evS id id).memWf,
     ((at6 (evS id fun x => { x with win := some (w [1, 2] false) })).takePort 9 (hAddr 0x2000 1)).isSome, decide ((w [1, 2] false).last < h.clock 9),
     decide (((evS (fun e => { e with n := 10 }) fun x => { x with wait := some ⟨10, 5, codeQSTALL, 4⟩ }).scav 9 3).wait = some ⟨10, 5, codeQSTALL, 4⟩),
     decide (1 + 5 ≤ h.clock 9 ∧ codeFEWAIT ≠ 0 ∧ (Instr.ldf lf).op? = some lf ∧ popDirs lf = []),
     (u.memAccess 3 (.ldf lf) lf 0).any Option.isSome && !h.pushWaits 9 3 (.ldf lf), (h.takePort 9 (u.ea lf).toNat).isSome, (busy.takePort 9 0x40).isNone,
     decide ((u.ea lf).toNat < 2 ^ 21) && u.accessBad true false false 8 [(0, u.ea lf)] == none,
     !({ u with empty := [u.keyOf (u.ea lf).toNat / 8] } : State).isFull (u.keyOf (u.ea lf).toNat),
     (b0.neighbour 9 (po.xbits 0 2)).isSome && decide ((held (.pop po)).queued 9 (.scav 3) (po.xbits 0 2) = 0) && decide ((Instr.pop po).op? = some po),
     decide (((evS (fun e => { e with k := 63 }) id).evt.k) < 64),
     [ScavSt.yielding 0, .forfeit 0].all fun z => ((evS id fun x => { x with st := z }).scav 9 3).st == z,
     [ScavSt.ready, .waiting, .halted, .yielding 3, .forfeit 1].all fun z => let t := evS id fun x => { x with st := z, pendWp := some 0x3000 }
       (t.scav 9 3).win.isNone && (t.scav 9 3).pendWp.isSome && !(t.core 9).frozen && (t.scav 9 3).st == z].all id = true := by decide +kernel

/-- A message of channel 5 for core 9. -/
def msg5 : Msg := { target := BitVec.ofNat 64 (9 + 5 * 2 ^ 10), args := #v[1, 2, 3, 4], stamp := 0, src := 10, orig := 1, thr := .prim, ref := 0 }

/-- Core 9 with an assigned channel 5 of two slots. -/
def ch5 : Chan := { Chan.reset with v := true, nws := 1, wsz := 33, wsb := 0x4000 }

theorem witness_ArrivalEvents :
    let drains := ev9 id fun x => { x with prim := { x.prim with mode := .drain, owesDrain := true, flight := [mkFlight 2 .s 5 false 3 true 0 7] } }
    let p := b0.pendOf oA .fill
    let net := ev9 (fun e => { e with id := 4 }) fun x => { x with qnet := [{ p with id := 4, performed := true, data := List.replicate 32 1 }] }
    let q := ev9 (fun e => { e with load := .msg msg5 }) fun x => { x with ttab := vset x.ttab 5 ch5 }
    let ring := ((q.tileCores (q.tileOf 9)).foldl (fun s d => s.modCore d fun x => { x with scav := Vector.replicate 8 { Scav.reset with st := .halted } }) q).modCore 9 fun x => { x with ring := [(0, msg5)], scav := Vector.replicate 8 { Scav.reset with st := .waiting } }
    let cores := ring.tileCores (ring.tileOf 9)
    let mail : Mail := { ni := .core 0, seq := 1, msg := msg5, refused := false, held := false, taken := false }
    let sent := q.modCore 0 fun x => { x with inj := [{ b0.pendOf oA .send with id := 0, mail := some mail }] }
    let fill := ev9 (fun e => { e with id := 4 }) fun x => { x with qnet := [{ p with id := 4, performed := true, writing := true, c := 8, data := List.replicate 32 1 }] }
    [decide ((drains.prim 9).waitsDraining = true), (net.core 9).net 4 |>.any fun p => p.performed, decide ((ev id).putOff 9 false .portValueArrival = none),
     decide ((ev fun e => { e with k := 3, load := .vec 7 }).evt.k < 4), decide (q.putOff 9 false .messageArrival = none), !q.heldBack msg5,
     ((q.core 9).chan msg5.chan).admits msg5 && decide ((q.core 9).ring.length < 32), decide (msg5.orig.toNat < 3) && (sent.mailOf msg5.entry.1 msg5.entry.2).isSome,
     !(sent.core msg5.entry.1).stays .prim mail, ((fill.core 9).net 4).any fun p => p.performed && !p.err && p.writing && p.c.setWidth 8 != 0#8,
     ((net.core 9).net 4).any (fun p => !p.writing && !p.err) && (net.core 9).cache.isEmpty, decide (9 ∈ cores ∧ cores.Nodup), cores.all fun d => d == 9 || (ring.pickThread d).isNone,
     decide ((ring.core 9).dispAt ≠ ring.clock 9 + 1 ∧ (ring.core 9).frozen = false), (ring.pickThread 9).isSome && ((ring.core 9).ringPick).isSome,
     ((evS id id).takePort 9 (0x4000 + 0x100)).isSome, ((ring.core 9).chan 5).legal && decide (1023 < 1024 ∧ 1008 % 16 = 0 ∧ 1016 % 16 = 8)].all id = true := by
  decide +kernel

/-- An uncached answer, and a refused message that may go again or must stay. -/
theorem witness_ArrivalEvents_answers :
    let u := evS (fun e => { e with n := 1, dw := 5 }) fun x => { x with ask := some none }
    let mail : Mail := { ni := .core 0, seq := 1, msg := msg5, refused := true, held := false, taken := false }
    let first := { mail with seq := 0 }
    let q := ((ev fun e => { e with k := 1, load := .msg msg5 }).modCore 0 fun x =>
      { x with inj := [{ b0.pendOf oA .send with id := 3, mail := some first }, { b0.pendOf oA .send with id := 0, mail := some mail }] })
    [decide ((u.scav 9 3).ask = some none ∧ u.evt.thr = .scav 3), (q.core 0).stays .prim mail, !(q.core 0).stays .prim first, (q.mailOf msg5.entry.1 msg5.entry.2).isSome,
     decide (msg5.orig.toNat < 3)].all id = true := by decide +kernel

/-- A primary that runs a body of launch 0. -/
def task0 : Task := { launch := 0, entry := 0x40, chunk := [(3, 2)], body := false, claiming := true, dry := false, begun := false }

theorem witness_WorkEvents :
    let s := (ev id).setRec .launch 0 { recOf 5 with nop := false }
    let t := fun (g : Prim → Prim) => s.modCore 9 fun x => { x with prim := g { x.prim with task := some task0 } }
    let d : List Word := [0x40, 0, BitVec.ofNat 64 (9 * 2 ^ 16 + 9 * 2 ^ 32), 0x8000, 0, 0, 0, 0]
    let la := ev9 (fun e => { e with id := 0 }) fun x => { x with inj := [{ b0.pendOf oA .launch with ws := d ++ [1, 0x200] ++ List.replicate 15 0 }] }
    let ca := ((ev id).setRec .launch 0 (recOf 5)).modCore 9 fun x => { x with inj := [{ b0.pendOf oA .cancel with a := 0 }] }
    [decide ((recOf 5).done = false ∧ (recOf 5).can = 0 ∧ (recOf 5).ret = []) && decide ((recOf 5).next < (recOf 5).total), decide (s.putOff 9 false .launchOffer = none),
     (s.modCore 9 fun x => { x with offer := none }).coreFree 9, (s.wrec .launch 0).isSome, ((t id).prim 9).task.any fun k => k.launch == 0 && k.claiming,
     decide (((t id).prim 9).mode = .idle) && (grantPop task0.chunk).isSome && !task0.begun, ((t fun p => { p with mode := .entering }).prim 9).mode == .entering,
     decide (1 < (recOf 5).count), decide ((recOf 1).count = 1 ∧ (recOf 1).nop = true), (ca.core 9).pend 0 |>.isSome,
     decide (levelOf 0 = .launch), decide ((s.tile (s.tileOf 9)).supply = .on) && !((t id).deferPreempt 9) && ((t id).core 9).qmx.isEmpty,
     decide (0 < (recOf 5).count), (s.wrec .job 0).isNone && s.parentOk .job true 0, (la.core 9).pend 0 |>.isSome].all id = true := by
  decide +kernel

theorem witness_WorkEvents_launch :
    let d : List Word := [0x40, 0, BitVec.ofNat 64 (9 * 2 ^ 16 + 9 * 2 ^ 32), 0x8000, 0, 0, 0, 0]
    let mask := 2 ^ 9
    ((ev id).descOk d true mask).isSome = true ∧ ((ev id).freeLaunch 0).isSome = true := by decide +kernel

/-- Core 9's vault offsets below 64 MiB and the sump's map to themselves, writable, by their translation buffers. -/
def mapped (s : State) : State :=
  let t := s.modCore 9 fun x => { x with tb := [{ dom := 2, base := 0, shift := 26, leaf := 0xE000000000000000, readyAt := 0 }] }
  t.modTerm fun x => { x with tb := [{ dom := 4, base := 0, shift := 26, leaf := 0xE000000000000000, readyAt := 0 }] }

/-- An injection entry of core 9's primary with number 4 and tag 5. -/
def inj4 (k : PKind) (a : Word) : Pend := { b0.pendOf oA k with id := 4, tag := 5, a := a, b := 0 }
def withInj (p : Pend) : State := mapped (ev9 (fun e => { e with id := 4 }) fun x => { x with inj := [p] })
/-- The operation that event 4 concerns. -/
def pend4 (s : State) (f : Pend → Bool) : Bool := ((s.core 9).pend 4).any f

/-- A copy of 8 bytes in the scratchpad's queue, reading or writing a vault or a scratchpad. -/
def cp4 (e : EvArg → EvArg) (w d : Bool) (src dst : Nat) : State := mapped (ev9 (fun x => e { x with id := 4 }) fun x =>
  { x with qcp := [{ inj4 .xcp 0x40 with moves := [⟨src, dst, 8, true⟩], writing := w, performed := d, data := if w then List.replicate 8 1 else [] }] })
def far : Nat := (glo 2 10 0x40).toNat

theorem witness_EngineEvents_completions :
    let done := fun (k : Nat) => { withInj { inj4 .ratom (glo 2 9 0x40) with performed := true, x12 := 0x10 } with evt := { (ev id).evt with id := 4, k := k } }
    let owes := { withInj { inj4 .ratom (glo 2 9 0x40) with performed := true, c := 0x80, ws := [5] } with evt := { (ev id).evt with id := 4, k := 2 } }
    let cp := fun (d : Bool) => cp4 (fun e => { e with k := 2 }) true d far 0x80
    [[0, 1, 2, 4].all fun k => pend4 (done k) fun p => p.prot == false && decide (p.tag < 64) && p.results.isEmpty && p.kind != .xlinv,
     pend4 (withInj { inj4 .xlinv 0 with x12 := 1 }) fun p => p.kind == .xlinv && p.x12.getLsbD 0,
     pend4 (cp true) fun p => p.performed,
     pend4 (cp false) fun p => !p.performed && ((cp false).putOffAny ((cp false).homesOf 9 (p.moves.flatMap Move.dsts)) true .engineOperationComplete).isNone &&
       decide ((cp false).guardWait 9 p p.moves = 0),
     pend4 owes fun p => p.results == [(0x80, natToBytes 8 5)] && decide (owes.guardEnd 9 p.sbt 0x80 8 = 0),
     (owes.putOff 9 true .engineOperationComplete).isNone && owes.memWf].all id = true := by decide +kernel

/-- A request at a home port. -/
def req0 (s : State) : PortReq := s.portReq (inj4 .ratom 0) 1 .ratomAtHome

theorem witness_EngineEvents_ports :
    let at_ := fun (n : Nat) => let s := ev fun e => { e with k := 2, id := n }
      s.setPort (portOfStep 9 n) { waiting := [req0 s], free := 0 }
    [0, 1, 2].all (fun n => let s := at_ n; !(s.portAt (portOfStep s.evt.core s.evt.id)).waiting.isEmpty && decide ((s.portAt (portOfStep s.evt.core s.evt.id)).free ≤ s.cycle) &&
      decide (s.evt.k = 2)) = true := by decide +kernel

theorem witness_EngineEvents_walks :
    let rd := cp4 (fun e => { e with k := 3 }) false false far 0x80
    let wr := cp4 (fun e => { e with k := 3 }) true false 0x80 far
    let miss := rd.modCore 10 fun x => { x with tb := [{ dom := 2, base := 0, shift := 26, leaf := 0xE000000000000000, readyAt := 50 }] }
    let ok := fun (s : State) => s.modCore 10 fun x => { x with tb := [{ dom := 2, base := 0, shift := 26, leaf := 0xE000000000000000, readyAt := 0 }] }
    let w := fun (s : State) (p : Pend) => s.walksOfAll 9 (!p.writing) (if p.writing then accCopy else accRead) p.pieces
    [pend4 miss fun p => !p.performed && decide ((w miss p).1 ≠ 0),
     pend4 (ok rd) fun p => !p.performed && !p.writing && decide ((w (ok rd) p).1 = 0) && (((w (ok rd) p).2.readMoves 9 p false).2.2.1).isEmpty,
     pend4 (ok wr) fun p => p.writing && decide ((w (ok wr) p).1 = 0) && decide ((w (ok wr) p).2.guardWait 9 p p.moves = 0),
     [rd, wr].all fun s => pend4 s fun p => (s.putOffAny (s.homesOf 9 (p.moves.flatMap (if p.writing then Move.dsts else Move.srcs))) p.writing .remoteAccessAtHome).isNone].all id = true := by
  decide +kernel

theorem witness_EngineEvents_atomics :
    let at1 := fun (s : State) => { s with evt := { s.evt with k := 1 } }
    let rat := withInj { inj4 .ratom (glo 8 0 0x40) with ws := [1, 0] }
    let dw := fun (c d : Nat) => (at1 <| withInj { inj4 .decr (glo 2 9 0x40) with ws := [1] }).writeKey (vaultKey 9 0x40) (natToBytes 8 c ++ natToBytes 8 d)
    let zero := fun (s : State) => match s.answer 9 (glo 2 9 0x40).toNat 32 true (s.accNow accDecr) with
      | (w, u, walk) => let v := fun i => bytesToNat (u.readAt (w.plus (8 * i)) 8)
        (walk == 0 && (match w with | .at_ _ _ => true | _ => false) && decide (u.guardHold w 8 = 0) && decide (0 < (BitVec.ofNat 64 (v 0)).toInt) && v 0 == 1, BitVec.ofNat 64 (v 1))
    let home := fun (s : State) (i : Instr) => pend4 s fun p => !p.performed && !s.outOfTurn 9 p &&
      match s.homeOf 9 p.a.toNat with | some h => (s.evt.k != 0 || decide (s.wayTo 9 p.a.toNat h = 0)) && (s.putOffHome h true i).isNone | none => false
    [home rat .ratomAtHome && home (dw 1 10) .decrAtHome,
     (match rat.answer 9 (glo 8 0 0x40).toNat 8 true (rat.accNow accAtomic) with | (.at_ k l, u, walk) => decide (walk = 0 ∧ u.guardHold (.at_ k l) 8 = 0) | _ => false),
     !(zero (dw 5 10)).1 && (zero (dw 1 10)).1, (zero (dw 1 (2 ^ 28))).2.getLsbD 28,
     !(zero (dw 1 0xC0)).2.getLsbD 28 && !isCore (Word.bits (zero (dw 1 0xC0)).2 0 10), !(zero (dw 1 10)).2.getLsbD 28 && isCore (Word.bits (zero (dw 1 10)).2 0 10),
     ((dw 1 10).core 9).inj.find? (fun q => q.id == 4) == (((dw 1 10).core 9).pend 4) && ((dw 1 10).core 9).inj.all fun q => q.mail.isNone].all id = true := by decide +kernel

theorem witness_EngineEvents_fullEmpty :
    let at1 := fun (s : State) => { s with evt := { s.evt with k := 1 } }
    let fe := fun (k : PKind) => at1 <| withInj { inj4 k (glo 1 9 0x40) with bound := 100 }
    let st := { fe .rstf with empty := [scratchKey 9 0x40 / 8] }
    let full := (fe .rstf).modCore 9 fun x => { x with park := List.replicate 64 { src := 9, id := 7, isStore := true, off := 0x80, data := 0, due := 0, seen := false } }
    let late := at1 <| withInj { inj4 .rstf (glo 1 9 0x40) with bound := 0, started := true }
    let at_ := fun (s : State) => pend4 s fun p => !p.performed && !s.outOfTurn 9 p && s.homeOf 9 p.a.toNat == some (.scratch 9 0x40) &&
      decide (s.evt.k ≠ 0) && (s.putOff 9 true .fullEmptyRemoteArrival).isNone &&
      match s.answer 9 p.a.toNat 8 true (s.accNow accAtomic) with | (.scratch d q b, u, walk) => decide (d = 9 ∧ q = 0x40 ∧ walk = 0 ∧ u.guardHold (.scratch d q b) 8 = 0) | _ => false
    let parked := ev9 (fun e => { e with k := 1, id := 4, n := 9 }) fun x => { x with park := [{ src := 9, id := 4, isStore := false, off := 0x40, data := 0, due := 0, seen := true }] }
    [at_ (fe .rldf) && at_ st && at_ full && at_ late, (fe .rldf).feRight 9 0x40 false && st.feRight 9 0x40 true, decide (late.clock 9 ≤ 0) && !late.feRight 9 0x40 true,
     !(fe .rstf).feRight 9 0x40 true && decide (((fe .rstf).core 9).park.length < 64), !full.feRight 9 0x40 true && decide (64 ≤ (full.core 9).park.length),
     decide ((fe .rldf).clock 9 < (fe .rldf).clock 9 + 100), !(parked.core 9).frozen && ((parked.tile (parked.tileOf 9)).supply == .on) && parked.feRight 9 0x40 false && parked.memWf,
     ((parked.core 9).park.find? fun q => q.id == 4 && q.src.val == 9 && decide (q.due ≤ parked.clock 9)).isSome,
     ((parked.core 9).park.all fun q => (blockSub (parked.sbt 9) q.off).isNone),
     decide ((withInj (inj4 .rldf (glo 1 10 0x40))).wayInj 9 (glo 1 10 0x40).toNat ≠ 0)].all id = true := by decide +kernel

theorem witness_EngineEvents_notices :
    let nt : Notice := { key := 1, src := 9, home := 9, level := 0, kind := 0, addr := 0x10000, stamp := 0 }
    let r : RouterPos := ⟨(b0.xy 9).1, (b0.xy 9).2⟩
    let flt : FaultEnt := { at_ := r, key := faultKey 0x10000, mask := 16, src := 9 }
    let wake := (ev fun e => { e with dw := 0x10000 }).modDie (dieAt r) fun d => { d with faults := [flt] }
    let waits := fun (a : Word) => { withInj { inj4 .ratom a with ws := [1, 0] } with evt := { (ev id).evt with dw := a } }.modCore 9 fun x => { x with waitWake := [(faultKey a.toNat, 4)] }
    [(b0.dies[(dieAt r).val].faults.find? fun q => q.at_ == r && q.key == nt.key).isNone, decide ((b0.dies[(dieAt r).val].faults.filter fun q => q.at_ == r).length < 32),
     decide ((b0.xy (supervisorOf (dieOf (heardBy nt.src.toNat nt.home.toNat)))) ≠ (r.px, r.py)),
     (wake.dies[(dieAt r).val].faults.find? fun q => q.at_ == r && q.key == faultKey wake.evt.dw.toNat).any fun q => q.mask.getLsbD 4,
     decide (wake.evt.load = .none) && decide ((wake.xy 9) = (r.px, r.py)) && decide (wake.evt.n ≠ 1 ∧ wake.evt.k ≠ 1),
     [glo 2 9 0x40, glo 2 10 0x40].all fun a => pend4 (waits a) fun p => p.kind == .ratom && p.moves.isEmpty && !p.performed && (((waits a).core 9).net 4).isNone &&
       ((waits a).homeOf 9 a.toNat).isSome && decide (((waits a).core 9).waitWake = [(faultKey (waits a).evt.dw.toNat, p.id)])].all id = true := by
  decide +kernel

/-- Entries of every kind that the statement names, at the matrix event's number. -/
theorem witness_MatrixEvents : [MKind.mma, .mmas, .mlatch, .mcmpr, .mzero].all (fun k =>
    ((ev9 id fun x => { x with qmx := [{ mxEnt with kind := k }] }).core 9).mxEntry 0 == some { mxEnt with kind := k }) = true ∧ mxEnt.bad = false ∧ mxEnt.latch = none := by
  decide +kernel

theorem witness_MatrixEvents_bad :
    ((ev9 id fun x => { x with qmx := [{ mxEnt with bad := true }] }).core 9).mxEntry 0 == some { mxEnt with bad := true } := by decide +kernel

/-- Arena 0 of 16 blocks in service, with its location entries in core 9's vault; and a sequence of no block. -/
def arena0 (s : State) : State :=
  let a : Arena := { dws := ((Vector.replicate 13 (0 : Word)).set 0 0x8000010B00000010).set 3 (glo 2 9 0x1000), ctfree := [], nhead := 0 }
  let t := s.setArena 0 a
  t.writeKey (vaultKey 9 0x10000) (natToBytes 8 (2 ^ 63 + (glo 2 9 0x20000).toNat) ++ natToBytes 8 (4 * 2 ^ 44))

/-- A pager request of core 9 that has arrived. -/
def req4 (ph : JPhase) (cs : List (Nat × Nat × Nat)) : JReq :=
  { core := 9, id := 4, phase := ph, inService := 1, arena := 0, moving := [], cow := [], copies := cs, taken := [], places := 0, chunk := 0, evictUntil := none, toEvict := 0, ready := 0 }
def withReq (r : JReq) (e : EvArg → EvArg) : State :=
  let s := arena0 (mapped (ev9 (fun x => e { x with id := 4 }) fun x => { x with qkv := [{ inj4 .kvrel (glo 2 9 0x10000) with started := true }] }))
  s.modTerm fun t => { t with junction := { t.junction with reqs := [r] } }

theorem witness_JunctionEvents :
    let s := withReq (req4 .waiting []) id
    let p := { inj4 .kvrel (glo 2 9 0x10000) with started := true }
    let c := withReq (req4 .control []) id
    let cp := withReq (req4 .copying [((glo 2 9 0x30000).toNat, (glo 2 9 0x40000).toNat, 512)]) id
    let go := withReq { req4 .control [((glo 2 9 0x30000).toNat, (glo 2 9 0x40000).toNat, 512)] with ready := 0 } fun e => { e with n := 1 }
    let rc : Reclaim := { arena := 0, pbn := 15, sump := false, stamp := 0 }
    let held := s.writeKey (vaultKey 9 0x1078) (natToBytes 8 (4 * 2 ^ 29))
    [(s.core 9).pend 4 == some p, (s.jreq 9 4).isSome, (b0.jreq 9 4).isNone, match s.runJ (planOf 9 p (req4 .waiting [])) with
      | .ok (pl, u) => !pl.short && pl.alloc == 0 && pl.moves.isEmpty && pl.cow.isEmpty &&
        (match giveUp 9 pl.arena pl.alloc 0 (req4 .waiting []) u with
         | .ok (g, v) => (match takeAll 9 pl.arena 1 0 2 g.1 g.2 v with | .ok _ => true | .error _ => false)
         | .error _ => false)
      | .error _ => false, decide (s.term.junction.ctlFree ≤ s.cycle), decide (s.term.junction.copiers < 8),
     match cp.runJ (do let v ← jRead 9 (glo 2 9 0x30000).toNat 256; jWrite 9 (glo 2 9 0x40000).toNat 256 v) with | .ok _ => true | .error _ => false,
     decide (256 * (0 + 1) < 512 ∧ 512 ≤ 256 * (1 + 1)), match c.runJ (completeOf 9 p (req4 .control [])) with | .ok (a, _) => a.isSome | .error _ => false,
     decide (go.evt.n = 1) && (go.jreq 9 4).any fun r => decide (r.ready ≤ go.cycle) && r.phase == .control && !r.copies.isEmpty,
     !s.term.junction.inControl && decide ((req4 .waiting []).taken = [] ∧ (req4 .waiting []).places = 0 ∧ (req4 .waiting []).ready ≤ s.cycle),
     [PKind.kvmatch, .kvins, .kvapp, .kvpin, .kvdem, .kvprom, .xcoll, .xcp, .xkvg].all (fun k => !(inj4 k 0).started && (inj4 k 0).ws.isEmpty && !(inj4 k 0).err),
     match readBlt 0 (s.arena 0) rc.pbn s with | .ok (b, _) => decide (b.state ≠ 4) | .error _ => false,
     match readBlt 0 (held.arena 0) rc.pbn held with
      | .ok (b, u) => decide (b.state = 4) && b.sump == rc.sump &&
        (match writeBlt 0 (u.arena 0) rc.pbn { refs := 0, pins := 0, state := 0, sump := false, touch := (u.arena 0).freehd } u with | .ok _ => true | .error _ => false)
      | .error _ => false,
     decide (rc.stamp.toNat + 2 ≤ (2 : Word).toNat), decide (s.cycle < (s.modTerm fun t => { t with junction := { t.junction with ctlFree := s.cycle + 1 } }).term.junction.ctlFree)].all id = true := by decide +kernel

theorem witness_JunctionEvents_undone :
    let s := withReq (req4 .waiting []) id
    (match s.runJ (undoReq 9 (req4 .waiting []) false) with
      | .ok (_, w) => (w.core 9).pend 4 == some { inj4 .kvrel (glo 2 9 0x10000) with started := true }
      | .error _ => false) = true := by decide +kernel

/-- The wait of a request ends with its blocks still missing: every premise of the expiry of R427 holds together. -/
theorem witness_JunctionEvents_expiry :
    let app := { inj4 .kvapp (glo 2 9 0x10000) with started := true, b := 1 }
    let full := fun (a : Arena) => { a with dws := (a.dws.set 0 0x8000010B00000010) }
    let s := (withReq { req4 .waiting [] with evictUntil := some 0 } id).modCore 9 fun x => { x with qkv := [app] }
    let s := s.setArena 0 (full (s.arena 0))
    let r := (s.jreq 9 4).getD (req4 .waiting [])
    (match s.runJ (planOf 9 app r) with
    | .ok (pl, u) =>
      let wants := pl.moves.length
      (match giveUp 9 pl.arena pl.alloc wants r u with
       | .ok (g, v) => (match takeAll 9 pl.arena pl.alloc wants (pl.alloc + wants + 1) g.1 g.2 v with
         | .ok ((ts, k), w) => (pl.short, pl.alloc, wants, ts.length, k, (match evict 9 pl.arena r.toEvict (w.setReq { r with taken := ts, places := k, arena := pl.arena }) with | .ok _ => true | .error _ => false))
         | .error _ => (true, 0, 0, 0, 0, false))
       | .error _ => (true, 1, 0, 0, 0, false))
    | .error _ => (true, 2, 0, 0, 0, false)) = (false, 1, 0, 0, 0, true) := by decide +kernel

/-- An entry stamped 0 that the periodic reports of all cores have passed. -/
theorem witness_JunctionEvents_low : (0 : Word).toNat + 2 ≤ ({ b0 with cycle := 4096 } : State).wlow.toNat := by decide +kernel

/-- A use 0 of group 3 with members 9 and 10. -/
def grp (os : List Use) : Group := { Group.reset with v := true, mask := BitVec.ofNat 1024 (2 ^ 9 + 2 ^ 10), opens := os }
def use0 (rel : List CoreId) : Use :=
  { num := 0, mask := BitVec.ofNat 1024 (2 ^ 9 + 2 ^ 10), joined := [(9, 0)], contribs := [], differed := false, sent := false, rootAt := 0, result := List.replicate 8 0, released := rel }
def collP (perf : Bool) : Pend := { inj4 .xcoll 0x40 with kind := .xcoll, b := 0x80, c := BitVec.ofNat 64 (3 + 256 + 2 ^ 24 * 9), ws := [0], performed := perf }
def withUse (perf : Bool) (os : List Use) (e : EvArg → EvArg) : State :=
  (ev9 e fun x => { x with qco := [collP perf] }).setGroup 3 (grp os)

theorem witness_CollectiveEvents :
    let j := withUse false [] fun e => { e with id := 4 }
    let c := withUse true [use0 []] fun e => { e with id := 3, k := 3, dw := useDesc (collP true), load := .bytes (List.replicate 8 1) }
    let c2 := withUse true [use0 []] fun e => { e with id := 3, k := 2 }
    let mem := arena0 (mapped b0)
    [pend4 j fun p => !p.performed && collGroup p.c == 3, !(b0.group 3).v, (j.group 3).v && (j.group 3).mask.getLsbD 9 && (j.group 3).mask.getLsbD (collRoot (collP false).c),
     !(j.group 3).aborted.contains (collP false).use, decide ((collP false).use ≤ (j.group 3).passedAt 9), ((c.group 3).use 0).any fun u => !u.over && !u.differed,
     decide (descKind (useDesc (collP true)) ≠ 2), ((c.core 9).collEntry 3 0).any fun p => !p.writing, decide (c2.evt.k = 2) && ((c2.core 9).collEntry 3 0).isSome,
     receives (useDesc (collP true)) 9, !receives (useDesc { collP true with c := 3 }) 9, (c.putOff 9 false .collectiveResultArrival).isNone,
     ((c.group 3).use 0).any fun u => !u.released.contains 9, !(b0.group 255).busy, !((arena0 b0).arena 1).v, (mem.arena 0).v].all id = true := by decide +kernel

/-- A block of no use, and one whose stamp is old. -/
theorem witness_CollectiveEvents_clamp :
    let m := arena0 (mapped b0)
    let s := { m with tscBase := 2 ^ 43 }.writeKey (vaultKey 9 0x1078) (natToBytes 8 (2 ^ 29))
    (match readBlt 0 (m.arena 0) 15 m with | .ok (b, _) => decide (b.state = 0 ∧ ageOf (stampOf b0.tsc) b.touch ≤ 2 ^ 26) | .error _ => false) = true ∧
    (match readBlt 0 (s.arena 0) 15 s with | .ok (b, _) => decide (b.state ≠ 0 ∧ 2 ^ 26 < ageOf (stampOf s.tsc) b.touch) | .error _ => false) = true := by decide +kernel

theorem witness_SupervisorEvents :
    let prim := fun (e : EvArg → EvArg) (g : Prim → Prim) => ev9 e fun x => { x with prim := g x.prim }
    let cap := prim id fun p => { p with mode := .capturing }
    let sup := { cap with evt := EvArg.ofCore 1 }
    let r := { recvd .prim with received := false }
    let halted := prim (fun e => { e with k := 2 }) fun p => { p with mode := .halted, fault := some r }
    let hs := evS (fun e => { e with k := 2 }) fun x => { x with st := .halted, fault := some { recvd (.scav 3) with received := false } }
    let k : Captured := { frameAt := scratchKey 9 0x1EC000, slot := false, keep := { Prim.reset with task := some { task0 with body := true } }, at_ := 0, cause := 0, idle := false, back := 0 }
    let res := (cap.modCore 9 fun x => { x with cap := some k })
    let ring := ev9 (fun e => { e with load := .record (Vector.replicate 8 1) }) fun x => { x with ctl := { x.ctl with svrb := 0x800000000000100A } }
    [decide ((cap.prim 9).mode = .capturing ∧ (cap.core 9).qmx = [] ∧ cap.evt.id = 0) && (cap.core 9).cap.isNone && cap.memWf, (res.core 9).cap.isSome,
     (halted.putOff 9 true .contextResume).isNone && !halted.earlierPost 9 .prim, (hs.putOff 9 true .contextResume).isNone && !hs.earlierPost 9 (.scav 3) && (hs.scav 9 3).fault.any fun f => !f.received,
     !isSupervisor 9, isSupervisor sup.evt.core,
     decide ((halted.prim 9).fault = some r ∧ r.moved = false ∧ r.enc = false), decide (r.pres &&& ~~~r.done &&& ~~~(1#10 <<< r.slot.toNat) = 0),
     decide (r.pres &&& ~~~r.done ≠ 0), ((res.core 9).captured (some 0)).any fun q => decide (q.keep.frameCycles ≤ 160) && !q.idle && q.keep.fault.isNone && !(q.keep.task.any fun t => !t.body),
     decide (BitVec.ofNat 64 (res.frameDw 9 k 0x11E00) = k.back), decide (BitVec.ofNat 64 ((res.writeKey (scratchKey 9 (0x1EC000 + 0x11E00)) (natToBytes 8 4)).frameDw 9 k 0x11E00) ≠ k.back),
     (ring.putOff 9 true .ringRecordWrite).isNone && (ring.core 9).ringOut.isEmpty && (ring.core 9).ctl.ringOpen && ring.memWf && decide (ring.guardEnd 9 (ring.sbt 9) 0x1000 64 = 0),
     decide (b0.xy 9 = b0.vaultXY 9),
     (ring.core 9).ctl.svrb.getLsbD 63, decide ((ev fun e => { e with n := 63 }).evt.n < 64)].all id = true := by decide +kernel

/-- A checkpoint of core 9 in its wait, and frozen. -/
def ckpt0 (f : Bool) : Ckpt := { frozen := f, began := 0, heldAt := 0, stamp := 0, dst := 5, seq := 1, lines := [], failed := false, snap := none }

theorem witness_FlowstoneEvents :
    let ck := fun (f : Bool) => ev9 id fun x => { x with ckpt := some (ckpt0 f), prim := { x.prim with mode := .checkpoint } }
    let tl := tileOfNat 0
    let sup := fun (k : Nat) (z : Supply) => (ev fun e => { e with k := k }).modTile tl fun x => { x with supply := z }
    let clean := ((sup 0 .gating).tileCores tl).foldl (fun s d => s.modCore d fun x => { x with dirty := 0 }) (sup 0 .gating)
    let busy := (sup 1 .closing).modCore 0 fun x => { x with port := { waiting := [(sup 1 .closing).portReq (b0.pendOf oA .ratom) 1 .ratomAtHome], free := 0 } }
    [((ck true).core 9).ckpt == some (ckpt0 true) && !((ck true).core 9).scavsBusy, ((ck false).core 9).qmx.isEmpty, decide (((ck false).core 9).prim.mode = .checkpoint),
     decide ((b0.tile tl).supply ≠ .lost), ((sup 0 .lost).tile tl).supply == .lost && ((sup 1 .lost).tile tl).supply == .lost,
     ((sup 0 .on).tileCores tl).length == 4 && ((sup 0 .on).tileCores tl).all fun d => (sup 0 .on).coreIdle d,
     ((sup 1 .closing).tileCores tl).all fun d => ((sup 1 .closing).acceptedAt d).isEmpty, ((busy.tile tl).supply == .closing) && (busy.tileCores tl).any fun d => !(busy.acceptedAt d).isEmpty,
     !(ckpt0 true).snap.any Snap.gating, (clean.tile tl).supply == .gating && (clean.tileCores tl).all fun d => (clean.core d).ckpt.isNone && (clean.core d).dirty == 0,
     !((sup 0 .gating).tileCores tl).all fun d => ((sup 0 .gating).core d).ckpt.isNone && ((sup 0 .gating).core d).dirty == 0,
     ((sup 0 .gated).tile tl).supply == .gated && ((sup 1 .gated).tile tl).supply == .gated,
     !((sup 0 .gated).agenda.any fun i => i.what == .tileWake && i.arg.n == 0 && i.arg.k == 1)].all id = true := by decide +kernel

/-- An image of one code section of one word. -/
def image1 : Image := natToBytes 8 (0x49535556 + 2 ^ 32) ++ natToBytes 8 1 ++ natToBytes 8 64 ++ List.replicate 40 0 ++
  (natToBytes 8 1 ++ natToBytes 8 96 ++ natToBytes 8 4 ++ natToBytes 8 0) ++ natToBytes 4 0x0000061C

/-- The module runs, with its message windows open. -/
def running : State := (mapped (ev id)).modTerm fun t => { t with service := { t.service with boot := .running, windowsOpen := true } }

theorem witness_HostEvents :
    let post : List Word := [BitVec.ofNat 64 0, 1, 2, 3, 4, 0, 0, 0]
    let full := running.modWindow .portA fun w => { w with slots := Vector.replicate 16 (some msg5) }
    let host := fun (k : Nat) (a : HostAccess) => { running with evt := { running.evt with k := k, load := .host a } }
    let miss := fun (s : State) => s.modTerm fun x => { x with tb := [{ dom := 4, base := 0, shift := 26, leaf := 0xE000000000000000, readyAt := 50 }] }
    let wr : HostAccess := .write true 0x40 [1, 2, 3]
    let rd : HostAccess := .read true 0x40 3
    let walks := fun (s : State) (h : HostAccess) => (s.walksOfAll 0 (!h.parts.2.2.1) (if h.parts.2.2.1 then accHost else accRead) (piecesOf 65536 h.parts.1 h.parts.2.1)).1
    let asks := fun (s : State) (h : HostAccess) =>
      let r := s.askHost { (if h.parts.2.2.1 then accHost else accRead) with walked := true } (!h.parts.2.2.1) (piecesOf 65536 h.parts.1 h.parts.2.1)
      r.2.1 && r.2.2.1.isNone
    let semS := fun (k n : Nat) => { running with evt := { running.evt with k := k, n := n, load := .sem (.port .portA) } }
    [(running.writeMap 0x3FF 0x71000 5).isSome, (running.writeMap 9 0x20018 5).isSome, running.portAnswers .portA && running.portAnswers .portB,
     postOk post && post.length == 8, (vget (full.window .portA).slots 15).isSome, (vget (running.window .portA).slots 15).isNone,
     !((running.window .portA).order.any fun q => q.2.1 || q.2.2),
     [wr, rd].all fun h => let q := h.parts; let ps := piecesOf 65536 q.1 q.2.1
       addrOk q.1 && addrOk (q.1 + q.2.1 - 1) && ps.all fun x => ((host 0 h).homeOf 0 x.1).isSome && ((host 0 h).putOffAny (ps.filterMap fun x => (host 0 h).homeOf 0 x.1) q.2.2.1 .hostMemoryAccess).isNone,
     [wr, rd].all fun h => decide (walks (host 1 h) h = 0) && asks (host 1 h) h && decide (walks (miss (host 1 h)) h ≠ 0), wr.parts.2.2.1 && !rd.parts.2.2.1,
     [(8, 0x400), (8, 0x808), (0, 31)].all fun w => ((semS w.1 w.2).semDelay (.port .portA)).isNone && (semS w.1 w.2).ioAnswers .portA,
     decide ((running.sem 31).owner = 0), ((running.setSem 31 ⟨2, 0⟩).sem 31).owner == 2,
     decide (running.checkImage image1 = 0), decide (running.checkImage [] ≠ 0), running.term.service.boot != .off && (running.window .portA).up,
     running.term.service.current.isNone].all id = true := by decide +kernel

/-- A firmware image that the boot ROM accepts once the fuses hold the digest of its key. -/
def firm : Firmware :=
  { body := [0x61, 0x62, 0x63], key := key521, sig := sig521, headerOk := true, version := 1, leakage := Vector.replicate 80 0, safeBudget := 600
    supervisor := ⟨[0x0000061C], 0, [], [], []⟩, station := ⟨[0x0000061C], 0, [], [], []⟩ }

theorem witness_PowerEvents_firmware :
    ({ State.reset.term.service with flash := (Vector.replicate 2 none).set 1 (some firm), fusedKey := sha512 (keyBytes key521) }).choose = some firm ∧
    State.reset.term.service.choose = none := by decide +kernel

theorem witness_PowerEvents :
    let mv := fun (p : Option CoreId) => ev9 (fun e => { e with k := 4 }) fun x => { x with move := some { dest := 195, why := 2, peer := p, held := false, swapped := false } }
    let q := vget b0.dies[0].lpt 9
    let d := coreOfNat q.lid.toNat
    let req := fun (k : Nat) (w : Bool) => (ev fun e => { e with k := k, n := 9 }).modCore d fun x =>
      { x with moveReq := some 1, move := if w then some { dest := 195, why := 1, peer := none, held := false, swapped := true } else none }
    let cur := (ev id).modTerm fun t => { t with service := { t.service with current := some firm, boot := .recovery } }
    let row := ev fun e => { e with n := 5 * Config.rowSize }
    [isCore q.lid.toNat && (b0.moveTo d).isSome && (b0.core d).moveReq.isNone && (b0.core d).move.isNone, ((mv none).core 9).move.isSome,
     [(1, false), (2, false), (2, true)].all fun w => let s := req w.1 w.2; decide (s.evt.id = 0) && isCore (vget s.dies[(dieOf s.evt.core).val].lpt s.evt.n).lid.toNat &&
       (s.core d).moveReq.isSome && (((s.core d).move.any fun m => m.swapped) == w.2),
     ((mv none).core 9).qnet.isEmpty && (b0.prim 9).mode != .capturing, decide (195 < 196) && decide (195 ≠ (mv none).posOf 9), isCore 9,
     cur.term.service.current == some firm && !cur.term.service.windowsOpen && !((List.finRange 196).any fun i => (cur.tile i).supply == .lost),
     decide (cur.term.service.boot ≠ .running) && cur.term.service.boot == .recovery, (mapped b0).memWf,
     decide (((row.core 9).spared.filter fun q => Config.rowBank q == Config.rowBank 5).length < 8) && row.memWf,
     decide (8 ≤ (((row.modCore 9 fun x => { x with spared := List.replicate 8 5 }).core 9).spared.filter fun q => q == 5).length)].all id = true := by decide +kernel

/-- Reset meets the bounds and steps; a halted primary with its record does as well. -/
theorem witness_StepKeepsQueuesAndRecords : State.reset.bounded ∧ (match step State.reset with | .next t => !t.iss.live | _ => false) = true ∧
    (((runningOn b0 9 .halted).modPrim 9 fun p => { p with fault := some (recvd .prim) }).prim 9).haltRecorded = true := by
  refine ⟨⟨fun c => ?_, fun i => ?_⟩, by decide +kernel, by decide +kernel⟩
  · have h : State.reset.core c = Core.reset := by simp [State.core, State.reset]
    simp only [State.prim, h]
    decide
  · have h : State.reset.tile i = TileSt.reset := by simp [State.tile, State.reset]
    rw [h]
    decide

end Sys2Proof.Tests
end

section
/-! PROOFS. Control and scalar integers (spec/05): the rules of a performed operation, of a branch after its operands, of the encoding
checks and of the decoder that the statements on `NOPB`, the conditions, the integer results and `ADDI` rest on, and those statements. -/

namespace Sys2Proof.Machine

open Sys2Proof

/-! ## Reading operands leaves the issue context -/

@[simp] theorem State.iss_returnCredit (s : State) (c : CoreId) (t : Thr) (dir : Nat) : (s.returnCredit c t dir).iss = s.iss := by
  unfold State.returnCredit
  split
  · exact State.after_iss ..
  · rfl

@[simp] theorem State.iss_popPrim (s : State) (c : CoreId) (dir : Nat) : (s.popPrim c dir).2.iss = s.iss := by
  unfold State.popPrim
  dsimp only
  split
  · rfl
  · exact State.iss_returnCredit ..

@[simp] theorem State.iss_popScav (s : State) (c : CoreId) (k : Fin 8) (dir : Nat) : (s.popScav c k dir).2.iss = s.iss := by
  unfold State.popScav
  dsimp only
  split
  · rfl
  · exact State.iss_returnCredit ..

/-- A scalar source is a register, a latch or a pop; none of them touches the issue context. -/
@[simp] theorem State.iss_srcS (s : State) (x : BitVec 6) (latch : Bool) : (s.srcS x latch).2.iss = s.iss := by
  unfold State.srcS
  split
  · cases latch
    · rfl
    · by_cases hp : isPopCode x = true <;> simp [hp]
  · cases latch
    · rfl
    · exact State.iss_popScav ..

@[simp] theorem State.iss_srcAB (s : State) (op : Op) : (s.srcAB op).2.2.iss = s.iss := by simp [State.srcAB]

/-! ## Performed operations -/

/-- A two-source operation that runs writes its function of the sources. -/
theorem binS_of_runs {s : State} {op : Op} (h : s.runs op = true) (lat : Nat) (f : Word → Word → Word) :
    binS op lat f s = .next ((s.srcAB op).2.2.putS op lat 0 (f (s.srcAB op).1 (s.srcAB op).2.1)) :=
  perform_of_runs h _

/-- A one-source operation that runs writes its function of the source. -/
theorem unS_of_runs {s : State} {op : Op} (h : s.runs op = true) (f : Word → Word) :
    unS op f s = .next ((s.srcS op.a op.la).2.putS op 1 0 (f (s.srcS op.a op.la).1)) :=
  perform_of_runs h _

/-- What holds of a two-source operation's function holds of the result that the operation writes. -/
theorem exists_result_of_binS {i : Instr} {s : State} {op : Op} {lat : Nat} {f : Word → Word → Word} {P : Word → Prop}
    (hi : exec i s = binS op lat f s) (h : s.runs op = true) (hf : P (f (s.srcAB op).1 (s.srcAB op).2.1)) :
    ∃ r, P r ∧ exec i s = .next ((s.srcAB op).2.2.putS op lat 0 r) :=
  ⟨_, hf, hi.trans (binS_of_runs h lat f)⟩

/-! The operations of major `0x08` and `ADDI` as functions of their sources. -/

theorem exec_add (op : Op) (s : State) : exec (.add op) s = binS op 1 (fun x y => x + y) s := rfl
theorem exec_sub (op : Op) (s : State) : exec (.sub op) s = binS op 1 (fun x y => x - y) s := rfl
theorem exec_and (op : Op) (s : State) : exec (.and op) s = binS op 1 (fun x y => x &&& y) s := rfl
theorem exec_or (op : Op) (s : State) : exec (.or op) s = binS op 1 (fun x y => x ||| y) s := rfl
theorem exec_xor (op : Op) (s : State) : exec (.xor op) s = binS op 1 (fun x y => x ^^^ y) s := rfl
theorem exec_andn (op : Op) (s : State) : exec (.andn op) s = binS op 1 (fun x y => x &&& ~~~y) s := rfl
theorem exec_min (op : Op) (s : State) : exec (.min op) s = binS op 1 (fun x y => if x.slt y then x else y) s := rfl
theorem exec_max (op : Op) (s : State) : exec (.max op) s = binS op 1 (fun x y => if x.slt y then y else x) s := rfl
theorem exec_minn (op : Op) (s : State) : exec (.minn op) s = binS op 1 (fun x y => if x.ult y then x else y) s := rfl
theorem exec_maxn (op : Op) (s : State) : exec (.maxn op) s = binS op 1 (fun x y => if x.ult y then y else x) s := rfl
theorem exec_addi (op : Op) (s : State) : exec (.addi op) s = unS op (fun x => x + Op.imm11 op) s := rfl

/-! ## Relative branches -/

/-- A relative target is the word's address plus four times the displacement (R87). -/
theorem State.relTarget_eq (s : State) (disp : Word) : s.relTarget disp = s.iss.waddr + 4 * disp := by
  have h : disp <<< 2 = 4 * disp := by bv_omega
  rw [State.relTarget, h]

/-- Where no earlier branch of the bundle is taken, a relative branch is taken just when its condition holds (R28, R106). -/
theorem State.branchRel_of_first {s : State} (h : s.iss.taken = none) (op : Op) (disp : Word) (taken : Bool) :
    s.branchRel op disp taken = if taken then s.take op (s.iss.waddr + 4 * disp) else s := by
  simp [State.branchRel, State.beaten, h, State.relTarget_eq]

/-! ## The encoding checks of one operation -/

section
variable {i : Instr} {o : Op} {cls : OpClass} {t : Thr} (ho : i.op? = some o) (hc : i.cls? = some cls)
include ho hc

/-- An operation's own fault is that its body is not legal. -/
theorem opFaults_fst : (opFaults i t).1 = !bodyOk i o cls t := by simp [opFaults, ho, hc]

/-- Illegal bits of `x12` or field `c` are an encoding fault. -/
theorem opFaults_of_modOk_false (h : modOk i o t = false) : (opFaults i t).1 = true := by
  simp [opFaults_fst ho hc, bodyOk, h]

/-- A destination past its kind's registers or codes is an encoding fault. -/
theorem opFaults_of_limit_le_dst (h : (fieldsOf i o).dst.limit t ≤ o.dst.toNat) : (opFaults i t).1 = true := by
  simp [opFaults_fst ho hc, bodyOk, Nat.not_lt.mpr h]

/-- An illegal field `c` is an encoding fault. -/
theorem opFaults_of_srcOk_c_false (h : srcOk cls t (isOwn i) (fieldsOf i o).c o.c o.lc = false) : (opFaults i t).1 = true := by
  simp [opFaults_fst ho hc, bodyOk, h]

end

/-- A source field that an operation does not use must be zero. -/
theorem srcOk_zero_of_ne (cls : OpClass) (t : Thr) (own : Bool) {x : BitVec 6} (latch : Bool) (h : x ≠ 0) :
    srcOk cls t own .zero x latch = false := by
  have hx : ¬ x.toNat < 1 := fun hlt => h (by bv_omega)
  cases latch
  · simpa [srcOk, FK.limit] using hx
  · rfl

/-- The modifier is the low four bits of `x12`. -/
theorem modifier_le_x12 (o : Op) : o.modifier ≤ o.x12.toNat := by
  calc o.modifier = o.x12.toNat % 16 := by simp [Op.modifier, Word.bits]
    _ ≤ o.x12.toNat := Nat.mod_le _ _

/-! ## The decoder, read backwards -/

/-- What a major's list of operations answers is one of the list, with the given fields. -/
theorem exists_mem_of_pick {l : List (Op → Instr)} {n : Nat} {o : Op} {i : Instr} (h : (l[n]?).map (fun f => f o) = some i) :
    ∃ f ∈ l, f o = i := by
  obtain ⟨f, hf, rfl⟩ := Option.map_eq_some_iff.mp h
  exact ⟨f, List.mem_of_getElem? hf, rfl⟩

/-- Major `0x0B` alone holds `ADDI` (R92). -/
theorem major_of_instrOf_addi {ma mi : Nat} {o op : Op} (h : instrOf ma mi o = some (.addi op)) : ma = 0x0B := by
  unfold instrOf at h
  dsimp only at h
  split at h
  case h_8 => rfl -- the row of `0x0B`
  case h_46 => cases h -- the reserved majors
  all_goals simpa using exists_mem_of_pick h

/-- A wide word is never an `ADDI` (R70). -/
theorem decodeWide_ne_addi (p : Pfx) (h t : IWord) (op : Op) : decodeWide p h t ≠ .ok (.addi op) := by
  intro hd
  unfold decodeWide at hd
  split at hd
  · cases hd
  · split at hd
    · cases hd
    · next hma =>
      split at hd
      · next hi =>
        cases hd
        exact hma (by simp [major_of_instrOf_addi hi])
      · cases hd

/-- A compact word that is an `ADDI` has the fields of R70. -/
theorem eq_addiOp_of_decodeCompact {p : Pfx} {f : LatchFlags} {w : IWord} {op : Op} (hd : decodeCompact p f w = .ok (.addi op)) :
    op = addiOp p f w := by
  unfold decodeCompact at hd
  split at hd
  · cases hd
  · split at hd
    · cases hd; rfl
    · next hma =>
      split at hd
      · cases hd
      · split at hd
        · next hi =>
          cases hd
          exact absurd (by simp [major_of_instrOf_addi hi]) hma
        · cases hd

/-- What `withPfx` changes is a fault; an operation that it answers was decoded. -/
theorem ok_of_withPfx_ok {px : Pfx} {cls : Option OpClass} {o : Op} {r : Except OpFault Instr} {i : Instr}
    (h : withPfx px cls o r = .ok i) : r = .ok i := by
  cases r with
  | ok j => exact h
  | error e => cases h

/-- What one operation's words decode to comes from its compact word, or from its head and tail. -/
theorem decodeCompact_or_decodeWide_of_decodeOp {p t : Option IWord} {w : IWord} {i : Instr} (h : decodeOp p w t = .ok i) :
    (∃ px f, decodeCompact px f w = .ok i) ∨ ∃ px tw, decodeWide px w tw = .ok i := by
  unfold decodeOp at h
  split at h
  · cases h
  · next px f _ =>
    split at h
    · split at h
      · cases h
      · exact .inl ⟨px, f, ok_of_withPfx_ok h⟩
    · next tw =>
      split at h
      · cases h
      · exact .inr ⟨px, tw, ok_of_withPfx_ok h⟩

/-- An item holds an operation only where one operation's words decode to it. -/
def ItemDecodes (it : Sys2Proof.Item) : Prop := ∀ i, it.res = .ok i → ∃ p w t, decodeOp p w t = .ok i

/-- An item made of an operation's words holds what they decode to. -/
theorem itemDecodes_opItem (off : Nat) (p : Option IWord) (w : IWord) (t : Option IWord) : ItemDecodes (opItem off p w t) := by
  intro i h
  refine ⟨p, w, t, ?_⟩
  unfold opItem at h
  dsimp only at h
  split at h
  · next hd => cases h; exact hd
  · cases h

/-- A fault holds no operation. -/
theorem itemDecodes_error (off len bad : Nat) (more : Bool) (c : EncCode) : ItemDecodes ⟨off, len, bad, more, .error c⟩ :=
  fun _ h => nomatch h

/-- A word of kind PRE that no operation follows is a fault (R83). -/
theorem itemDecodes_orphanItem (off : Nat) (p : IWord) : ItemDecodes (orphanItem off p) := by
  unfold orphanItem
  split <;> exact itemDecodes_error _ _ _ _ _

/-- A head with no tail is a fault (R84). -/
theorem itemDecodes_brokenHead (off : Nat) (p : Option IWord) (h : IWord) (more : Bool) : ItemDecodes (brokenHead off p h more) := by
  fun_cases brokenHead off p h more <;> exact itemDecodes_error _ _ _ _ _

/-- The first item of a list of words is one operation's words, or a fault. -/
theorem itemDecodes_of_scanItems_head (off : Nat) (ws : List IWord) : ∀ it ∈ (scanItems off ws).head?, ItemDecodes it := by
  fun_cases scanItems off ws <;>
    simp [itemDecodes_opItem, itemDecodes_error, itemDecodes_orphanItem, itemDecodes_brokenHead]

/-- What a list of words begins with is what one operation's words decode to. -/
theorem exists_decodeOp_of_decodeFirst {ws : List IWord} {i : Instr} (h : decodeFirst ws = some i) :
    ∃ p w t, decodeOp p w t = .ok i := by
  unfold decodeFirst at h
  split at h
  · next it _ hs =>
    split at h
    · next hr =>
      cases h
      exact itemDecodes_of_scanItems_head 0 ws it (by simp [hs]) _ hr
    · cases h
  · cases h

/-- A word that decodes to `ADDI` has no predicate field: it is predicated on `p0` (R70, R117). -/
theorem addi_pred_of_decodeFirst {ws : List IWord} {op : Op} (h : decodeFirst ws = some (.addi op)) :
    op.pred = 0 ∧ op.pneg = false := by
  obtain ⟨_, _, _, hop⟩ := exists_decodeOp_of_decodeFirst h
  obtain ⟨_, _, hc⟩ | ⟨_, _, hw⟩ := decodeCompact_or_decodeWide_of_decodeOp hop
  · cases eq_addiOp_of_decodeCompact hc
    exact ⟨rfl, rfl⟩
  · exact absurd hw (decodeWide_ne_addi _ _ _ _)

/-! ## Conditions (R108) -/

/-- "Not less" is "at most" the other way round, on signed numbers. -/
theorem not_slt_iff (x y : Word) : (!x.slt y) = true ↔ y.toInt ≤ x.toInt := by
  simp [BitVec.slt_eq_decide]

/-- The same on unsigned numbers. -/
theorem not_ult_iff (x y : Word) : (!x.ult y) = true ↔ y.toNat ≤ x.toNat := by
  simp [BitVec.ult_eq_decide]

/-- The table of conditions. -/
theorem condHolds_table (x y : Word) :
    (condHolds 0 x y = true ↔ x = y) ∧ (condHolds 1 x y = true ↔ x ≠ y) ∧
    (condHolds 2 x y = true ↔ x.toInt < y.toInt) ∧ (condHolds 3 x y = true ↔ y.toInt ≤ x.toInt) ∧
    (condHolds 4 x y = true ↔ x.toInt ≤ y.toInt) ∧ (condHolds 5 x y = true ↔ y.toInt < x.toInt) ∧
    (condHolds 6 x y = true ↔ x.toNat < y.toNat) ∧ (condHolds 7 x y = true ↔ y.toNat ≤ x.toNat) ∧
    (condHolds 8 x y = true ↔ x.toNat ≤ y.toNat) ∧ (condHolds 9 x y = true ↔ y.toNat < x.toNat) :=
  ⟨beq_iff_eq, bne_iff_ne, BitVec.slt_iff_toInt_lt, not_slt_iff x y, not_slt_iff y x, BitVec.slt_iff_toInt_lt,
    BitVec.ult_iff_toNat_lt, not_ult_iff x y, not_ult_iff y x, BitVec.ult_iff_toNat_lt⟩

/-- `BRC` with no earlier branch taken is taken just when its condition holds. -/
theorem exec_brc_of_first {s : State} {op : Op} (h : s.runs op = true) (hf : s.iss.taken = none) :
    exec (.brc op) s = .next (if condHolds op.dst.toNat (s.srcAB op).1 (s.srcAB op).2.1
      then (s.srcAB op).2.2.take op (s.iss.waddr + 4 * op.x12.signExtend 64) else (s.srcAB op).2.2) := by
  have hb : (s.srcAB op).2.2.iss.taken = none := by rw [State.iss_srcAB, hf]
  calc exec (.brc op) s = .next ((s.srcAB op).2.2.branchRel op (op.x12.signExtend 64)
          (condHolds op.dst.toNat (s.srcAB op).1 (s.srcAB op).2.1)) := perform_of_runs h _
    _ = _ := by rw [State.branchRel_of_first hb, State.iss_srcAB]

/-- Codes 10 to 15 are illegal in each field that holds a condition. -/
theorem opFaults_of_reserved_condition (op : Op) (t : Thr) :
    (10 ≤ op.dst.toNat → (opFaults (.brc op) t).1 = true) ∧
    (10 ≤ op.modifier → (opFaults (.cmp op) t).1 = true ∧ (opFaults (.cmpi op) t).1 = true) := by
  refine ⟨fun hd => opFaults_of_limit_le_dst (o := op) (cls := .b) rfl rfl hd, fun hm => ⟨?_, ?_⟩⟩
  · have hx : ¬ op.x12.toNat ≤ 9 := by have := modifier_le_x12 op; omega
    exact opFaults_of_modOk_false rfl rfl (decide_eq_false hx)
  · have hx : ¬ op.modifier ≤ 9 := by omega
    exact opFaults_of_modOk_false rfl rfl (decide_eq_false hx)

/-! ## Integer results (R114, R117) -/

/-- A difference is what the subtrahend adds up from to the minuend, modulo 2^64. -/
theorem toNat_sub_add (x y : Word) : ((x - y).toNat + y.toNat) % 2 ^ 64 = x.toNat := by
  rw [← BitVec.toNat_add, BitVec.sub_add_cancel]

/-- The lesser and the greater of two words, as signed and as unsigned numbers. -/
theorem toInt_ite_slt_min (x y : Word) : (if x.slt y then x else y).toInt = min x.toInt y.toInt := by
  simp only [BitVec.slt_iff_toInt_lt]
  split <;> omega

theorem toInt_ite_slt_max (x y : Word) : (if x.slt y then y else x).toInt = max x.toInt y.toInt := by
  simp only [BitVec.slt_iff_toInt_lt]
  split <;> omega

theorem toNat_ite_ult_min (x y : Word) : (if x.ult y then x else y).toNat = min x.toNat y.toNat := by
  simp only [BitVec.ult_iff_toNat_lt]
  split <;> omega

theorem toNat_ite_ult_max (x y : Word) : (if x.ult y then y else x).toNat = max x.toNat y.toNat := by
  simp only [BitVec.ult_iff_toNat_lt]
  split <;> omega

/-- The operations of major `0x08` (R114). -/
def major08 (op : Op) : List Instr :=
  [.add op, .sub op, .and op, .or op, .xor op, .andn op, .min op, .max op, .minn op, .maxn op]

/-- What the encoding checks ask of an operation of major `0x08`: `x12` is zero, and so is field `c`. -/
theorem checks_of_mem_major08 {op : Op} {i : Instr} (hi : i ∈ major08 op) :
    i.op? = some op ∧ i.cls? = some .s ∧ (∀ t, modOk i op t = (op.x12 == 0)) ∧ (fieldsOf i op).c = .zero := by
  simp only [major08, List.mem_cons, List.not_mem_nil, or_false] at hi
  obtain rfl | rfl | rfl | rfl | rfl | rfl | rfl | rfl | rfl | rfl := hi <;> exact ⟨rfl, rfl, fun _ => rfl, rfl⟩

theorem opFaults_of_mem_major08 {op : Op} {t : Thr} (h : op.x12 ≠ 0 ∨ op.c ≠ 0) {i : Instr} (hi : i ∈ major08 op) :
    (opFaults i t).1 = true := by
  obtain ⟨ho, hcls, hmod, hc⟩ := checks_of_mem_major08 hi
  rcases h with hx | hc0
  · exact opFaults_of_modOk_false ho hcls (by rw [hmod]; exact beq_false_of_ne hx)
  · exact opFaults_of_srcOk_c_false ho hcls (by rw [hc]; exact srcOk_zero_of_ne _ _ _ _ hc0)

/-- A sum of words as signed numbers, modulo 2^64. -/
theorem toInt_add_emod (x y : Word) : (x + y).toInt % 2 ^ 64 = (x.toInt + y.toInt) % 2 ^ 64 := by
  rw [BitVec.toInt_add]
  exact Int.bmod_emod

/-- Under `IMMX` the immediate of `ADDI` is the number that its 34 bits stand for (R81). -/
theorem toInt_imm11_of_immx {op : Op} {hi : BitVec 23} (h : op.pfx = .immx hi) :
    (Op.imm11 op).toInt = (hi ++ op.imm.setWidth 11 : BitVec 34).toInt := by
  rw [Op.imm11, h]
  exact BitVec.toInt_signExtend_of_le (w := 34) (v := 64) (by decide)

/-- Without `IMMX` it is the number that its 11 bits stand for (R70). -/
theorem toInt_imm11_of_ne_immx {op : Op} (h : ∀ hi, op.pfx ≠ .immx hi) :
    (Op.imm11 op).toInt = (op.imm.setWidth 11 : BitVec 11).toInt := by
  unfold Op.imm11
  split
  · next hi hp => exact absurd hp (h hi)
  · exact BitVec.toInt_signExtend_of_le (w := 11) (v := 64) (by decide)

/-! ## The statements -/

/-- Settles O18: an operation that runs is performed, and `NOPB` performs the identity; its word by evaluation of the decoder. -/
theorem nopHasNoEffect : Obligations.NopHasNoEffect := by
  refine ⟨fun op s h => perform_of_runs h _, ?_⟩
  exact ⟨⟨true, .none, 0, false, false, 0, 0, 0, 0, false, false, false, 0, 0, 0⟩, by decide⟩

/-- Settles O19: by the table of conditions, the rule of a performed operation for each of the three, and the encoding checks. -/
theorem conditionTable : Obligations.ConditionTable := by
  refine ⟨condHolds_table, fun op s h => ⟨?_, ?_, ?_⟩, opFaults_of_reserved_condition⟩
  · exact perform_of_runs h _
  · exact perform_of_runs h _
  · exact exec_brc_of_first h

/-- Settles O20: each operation writes a function of its two sources, of which its row of R114 holds. -/
theorem integerResults : Obligations.IntegerResults := by
  refine ⟨fun op t h i hi => opFaults_of_mem_major08 h hi, fun op s h => ?_⟩
  exact ⟨exists_result_of_binS (exec_add op s) h (BitVec.toNat_add _ _),
    exists_result_of_binS (exec_sub op s) h (toNat_sub_add _ _),
    exists_result_of_binS (exec_and op s) h fun _ => BitVec.getLsbD_and,
    exists_result_of_binS (exec_or op s) h fun _ => BitVec.getLsbD_or,
    exists_result_of_binS (exec_xor op s) h fun _ => BitVec.getLsbD_xor,
    exists_result_of_binS (exec_andn op s) h fun i hi => by simp [hi],
    exists_result_of_binS (exec_min op s) h (toInt_ite_slt_min _ _),
    exists_result_of_binS (exec_max op s) h (toInt_ite_slt_max _ _),
    exists_result_of_binS (exec_minn op s) h (toNat_ite_ult_min _ _),
    exists_result_of_binS (exec_maxn op s) h (toNat_ite_ult_max _ _)⟩

/-- Settles O23: the sum by the rule of a one-source operation, the immediate by its sign extension, the predicate by the decoder. -/
theorem addImmediate : Obligations.AddImmediate := by
  refine ⟨fun op s h => ?_, fun op => ?_, fun _ _ => addi_pred_of_decodeFirst⟩
  · exact ⟨_, toInt_add_emod _ _, (exec_addi op s).trans (unS_of_runs h _)⟩
  · split
    · next hp => exact toInt_imm11_of_immx hp
    · next hp => exact toInt_imm11_of_ne_immx hp

end Sys2Proof.Machine
end
